-- ==== Sys2Proof/Word.lean ====
section
/-! DEFINITION. The fixed widths of 00_scope.md R7 and 30_encoding.md R108. -/

namespace Sys2Proof

/-- A data byte, 8 bits (R7). -/
abbrev Byte := BitVec 8

/-- A word access or a composite register, 16 bits (R7). -/
abbrev Word := BitVec 16

/-- A CPU or controller address, 16 bits (R7). -/
abbrev Addr := BitVec 16

/-- The offset `readRAM` and `writeRAM` take, 13 bits (00_scope.md R17, R220). -/
abbrev RamOffset := BitVec 13

end Sys2Proof
end

