-- ==== Sys2Proof/Syntax.lean ====
section
/-! DEFINITION. The requests of the block (00_scope.md R3): the request words and operands as a caller
issues them (30_encoding.md R101 to R106), and `Instr`, one constructor for each mnemonic of
spec/opcode_table.json. Rows of the table with one mnemonic are the aligned pieces of one range (R109), so
they share a constructor. -/

namespace Sys2Proof

/-- The controller variants of 00_scope.md R17. A CART word is read against the rows of the active
one (R102). -/
inductive Variant where
  | noBanking | linear | mbc2 | mbc3 | mbc5
deriving DecidableEq, Repr

/-- The ten regions of the address decoder (41_memory_map.md R170). -/
inductive Region where
  | cartRom | vram | cartRam | wram | echo | oam | unmapped | io | hram | ie
deriving DecidableEq, Repr

/-- A request word with its format: the format is the port the word arrives on (R101, R102, R104, R106). -/
inductive ReqWord where
  /-- R101: `W` at bit 17, `D` at bit 16, `A` at bits 15:0. -/
  | bus (q : BitVec 18)
  /-- R102: `OP` at bits 17:16, `A` at bits 15:0. -/
  | cart (c : BitVec 18)
  /-- R104: `D` at bit 7, `CLS` at bits 6:4, `SEL` at bits 3:0. -/
  | reg (r : BitVec 8)
  /-- R106. -/
  | ctl (k : BitVec 8)
deriving DecidableEq, Repr

/-- A request as the caller issues it: its word, its data operand and, for `loadROM`, its image. A request
uses only the operand bits its own rule names (log 22): `data[7:0]` for a byte write, SET8 and the type code,
`data[15:0]` for a word write and SET16, `data[0]` for SETF. -/
structure Request where
  word  : ReqWord
  data  : Word
  image : List Byte
deriving DecidableEq, Repr

/-- One constructor for each mnemonic of spec/opcode_table.json. -/
inductive Instr where
  -- BUS byte reads and writes, and word accesses (R101)
  /-- R.ROM, R172. -/
  | rRom (a : Addr)
  /-- R.VRAM, R173. -/
  | rVram (a : Addr)
  /-- R.CRAM, R174. -/
  | rCram (a : Addr)
  /-- R.WRAM, R175. -/
  | rWram (a : Addr)
  /-- R.ECHO, R176. -/
  | rEcho (a : Addr)
  /-- R.OAM, R177. -/
  | rOam (a : Addr)
  /-- R.UNMAPPED, R178. -/
  | rUnmapped (a : Addr)
  /-- R.IO, R179. -/
  | rIo (a : Addr)
  /-- R.HRAM, R180. -/
  | rHram (a : Addr)
  /-- R.IE, R181. -/
  | rIe (a : Addr)
  /-- W.ROM, R183. -/
  | wRom (a : Addr) (v : Byte)
  /-- W.VRAM, R184. -/
  | wVram (a : Addr) (v : Byte)
  /-- W.CRAM, R185. -/
  | wCram (a : Addr) (v : Byte)
  /-- W.WRAM, R186. -/
  | wWram (a : Addr) (v : Byte)
  /-- W.ECHO, R187. -/
  | wEcho (a : Addr) (v : Byte)
  /-- W.OAM, R188. -/
  | wOam (a : Addr) (v : Byte)
  /-- W.UNMAPPED, R189. -/
  | wUnmapped (a : Addr) (v : Byte)
  /-- W.IO, R190. -/
  | wIo (a : Addr) (v : Byte)
  /-- W.HRAM, R191. -/
  | wHram (a : Addr) (v : Byte)
  /-- W.IE, R192. -/
  | wIe (a : Addr) (v : Byte)
  /-- RDW, R193. -/
  | rdw (a : Addr)
  /-- WRW, R194. -/
  | wrw (a : Addr) (v : Word)
  -- CART requests to a NoBanking controller
  /-- NB.READ@0000-7FFF, R222. -/
  | nbRead0000 (a : Addr)
  /-- NB.READ@8000-FFFF, R222. -/
  | nbRead8000 (a : Addr)
  /-- NB.WRITE@0000-FFFF, R223. -/
  | nbWrite0000 (a : Addr) (v : Byte)
  /-- NB.READRAM@0000-1FFF, R224. -/
  | nbReadRam (o : RamOffset)
  /-- NB.WRITERAM@0000-1FFF, R225. -/
  | nbWriteRam (o : RamOffset) (v : Byte)
  -- CART requests to a LinearBanking controller
  /-- LB.READ@0000-3FFF, R228. -/
  | lbRead0000 (a : Addr)
  /-- LB.READ@4000-7FFF, R229. -/
  | lbRead4000 (a : Addr)
  /-- LB.READ@8000-FFFF, R230. -/
  | lbRead8000 (a : Addr)
  /-- LB.WRITE@0000-1FFF, R231. -/
  | lbWrite0000 (a : Addr) (v : Byte)
  /-- LB.WRITE@2000-3FFF, R232. -/
  | lbWrite2000 (a : Addr) (v : Byte)
  /-- LB.WRITE@4000-5FFF, R233. -/
  | lbWrite4000 (a : Addr) (v : Byte)
  /-- LB.WRITE@6000-7FFF, R234. -/
  | lbWrite6000 (a : Addr) (v : Byte)
  /-- LB.WRITE@8000-FFFF, R235. -/
  | lbWrite8000 (a : Addr) (v : Byte)
  /-- LB.READRAM@0000-1FFF, R237. -/
  | lbReadRam (o : RamOffset)
  /-- LB.WRITERAM@0000-1FFF, R238. -/
  | lbWriteRam (o : RamOffset) (v : Byte)
  -- CART requests to an MBC2 controller
  /-- M2.READ@0000-3FFF, R263. -/
  | m2Read0000 (a : Addr)
  /-- M2.READ@4000-7FFF, R264. -/
  | m2Read4000 (a : Addr)
  /-- M2.READ@8000-FFFF, R265. -/
  | m2Read8000 (a : Addr)
  /-- M2.WRITE@0000-3FFF/A[8]=0, R266. -/
  | m2WriteA8Clear (a : Addr) (v : Byte)
  /-- M2.WRITE@0000-3FFF/A[8]=1, R267. -/
  | m2WriteA8Set (a : Addr) (v : Byte)
  /-- M2.WRITE@4000-FFFF, R268. -/
  | m2Write4000 (a : Addr) (v : Byte)
  /-- M2.READRAM@0000-1FFF, R269. -/
  | m2ReadRam (o : RamOffset)
  /-- M2.WRITERAM@0000-1FFF, R270. -/
  | m2WriteRam (o : RamOffset) (v : Byte)
  -- CART requests to an MBC3 controller
  /-- M3.READ@0000-3FFF, R272. -/
  | m3Read0000 (a : Addr)
  /-- M3.READ@4000-7FFF, R273. -/
  | m3Read4000 (a : Addr)
  /-- M3.READ@8000-FFFF, R274. -/
  | m3Read8000 (a : Addr)
  /-- M3.WRITE@0000-1FFF, R275. -/
  | m3Write0000 (a : Addr) (v : Byte)
  /-- M3.WRITE@2000-3FFF, R276. -/
  | m3Write2000 (a : Addr) (v : Byte)
  /-- M3.WRITE@4000-5FFF, R277. -/
  | m3Write4000 (a : Addr) (v : Byte)
  /-- M3.WRITE@6000-7FFF, R278. -/
  | m3Write6000 (a : Addr) (v : Byte)
  /-- M3.WRITE@8000-FFFF, R279. -/
  | m3Write8000 (a : Addr) (v : Byte)
  /-- M3.READRAM@0000-1FFF, R281. -/
  | m3ReadRam (o : RamOffset)
  /-- M3.WRITERAM@0000-1FFF, R282. -/
  | m3WriteRam (o : RamOffset) (v : Byte)
  -- CART requests to an MBC5 controller
  /-- M5.READ@0000-3FFF, R284. -/
  | m5Read0000 (a : Addr)
  /-- M5.READ@4000-7FFF, R285. -/
  | m5Read4000 (a : Addr)
  /-- M5.READ@8000-FFFF, R286. -/
  | m5Read8000 (a : Addr)
  /-- M5.WRITE@0000-1FFF, R287. -/
  | m5Write0000 (a : Addr) (v : Byte)
  /-- M5.WRITE@2000-2FFF, R288. -/
  | m5Write2000 (a : Addr) (v : Byte)
  /-- M5.WRITE@3000-3FFF, R289. -/
  | m5Write3000 (a : Addr) (v : Byte)
  /-- M5.WRITE@4000-5FFF, R290. -/
  | m5Write4000 (a : Addr) (v : Byte)
  /-- M5.WRITE@6000-FFFF, R291. -/
  | m5Write6000 (a : Addr) (v : Byte)
  /-- M5.READRAM@0000-1FFF, R292. -/
  | m5ReadRam (o : RamOffset)
  /-- M5.WRITERAM@0000-1FFF, R293. -/
  | m5WriteRam (o : RamOffset) (v : Byte)
  -- REG requests (R104)
  /-- GET8 a, R132. -/
  | get8A
  /-- GET8 b, R132. -/
  | get8B
  /-- GET8 c, R132. -/
  | get8C
  /-- GET8 d, R132. -/
  | get8D
  /-- GET8 e, R132. -/
  | get8E
  /-- GET8 h, R132. -/
  | get8H
  /-- GET8 l, R132. -/
  | get8L
  /-- SET8 a, R133. -/
  | set8A (v : Byte)
  /-- SET8 b, R133. -/
  | set8B (v : Byte)
  /-- SET8 c, R133. -/
  | set8C (v : Byte)
  /-- SET8 d, R133. -/
  | set8D (v : Byte)
  /-- SET8 e, R133. -/
  | set8E (v : Byte)
  /-- SET8 h, R133. -/
  | set8H (v : Byte)
  /-- SET8 l, R133. -/
  | set8L (v : Byte)
  /-- GET16 af, R134. -/
  | get16Af
  /-- GET16 bc, R136. -/
  | get16Bc
  /-- GET16 de, R136. -/
  | get16De
  /-- GET16 hl, R136. -/
  | get16Hl
  /-- GET16 sp, R138. -/
  | get16Sp
  /-- GET16 pc, R140. -/
  | get16Pc
  /-- SET16 af, R135. -/
  | set16Af (v : Word)
  /-- SET16 bc, R137. -/
  | set16Bc (v : Word)
  /-- SET16 de, R137. -/
  | set16De (v : Word)
  /-- SET16 hl, R137. -/
  | set16Hl (v : Word)
  /-- SET16 sp, R139. -/
  | set16Sp (v : Word)
  /-- SET16 pc, R141. -/
  | set16Pc (v : Word)
  /-- GETF z, R142. -/
  | getfZ
  /-- GETF n, R142. -/
  | getfN
  /-- GETF h, R142. -/
  | getfH
  /-- GETF c, R142. -/
  | getfC
  /-- SETF z, R143. -/
  | setfZ (b : Bool)
  /-- SETF n, R143. -/
  | setfN (b : Bool)
  /-- SETF h, R143. -/
  | setfH (b : Bool)
  /-- SETF c, R143. -/
  | setfC (b : Bool)
  -- CTL requests (R106)
  /-- RESET, R198. -/
  | reset
  /-- LOADROM, R196. -/
  | loadrom (image : List Byte) (code : Byte)
deriving DecidableEq, Repr

end Sys2Proof
end

