-- ==== Sys2Proof/WellFormed.lean ====
section
/-! DEFINITION. When a term of `Instr` is a request the table has: its address lies in the range of its
row (30_encoding.md R109, R110). Every other operand is typed at its exact width (R108), so it needs no
check. -/

namespace Sys2Proof

/-- `lo–hi`, both ends inclusive (00_scope.md R12, 90_conflicts.md C1). -/
def inRange (a : Addr) (lo hi : Nat) : Bool := decide (lo ≤ a.toNat ∧ a.toNat ≤ hi)

/-- The range check of every row of spec/opcode_table.json. -/
def Instr.wf : Instr → Bool
  | .rRom a => inRange a 0x0000 0x7FFF
  | .rVram a => inRange a 0x8000 0x9FFF
  | .rCram a => inRange a 0xA000 0xBFFF
  | .rWram a => inRange a 0xC000 0xDFFF
  | .rEcho a => inRange a 0xE000 0xFDFF
  | .rOam a => inRange a 0xFE00 0xFE9F
  | .rUnmapped a => inRange a 0xFEA0 0xFEFF
  | .rIo a => inRange a 0xFF00 0xFF7F
  | .rHram a => inRange a 0xFF80 0xFFFE
  | .rIe a => inRange a 0xFFFF 0xFFFF
  | .wRom a _ => inRange a 0x0000 0x7FFF
  | .wVram a _ => inRange a 0x8000 0x9FFF
  | .wCram a _ => inRange a 0xA000 0xBFFF
  | .wWram a _ => inRange a 0xC000 0xDFFF
  | .wEcho a _ => inRange a 0xE000 0xFDFF
  | .wOam a _ => inRange a 0xFE00 0xFE9F
  | .wUnmapped a _ => inRange a 0xFEA0 0xFEFF
  | .wIo a _ => inRange a 0xFF00 0xFF7F
  | .wHram a _ => inRange a 0xFF80 0xFFFE
  | .wIe a _ => inRange a 0xFFFF 0xFFFF
  | .rdw _ => true
  | .wrw _ _ => true
  | .nbRead0000 a => inRange a 0x0000 0x7FFF
  | .nbRead8000 a => inRange a 0x8000 0xFFFF
  | .nbWrite0000 _ _ => true
  | .nbReadRam _ => true
  | .nbWriteRam _ _ => true
  | .lbRead0000 a => inRange a 0x0000 0x3FFF
  | .lbRead4000 a => inRange a 0x4000 0x7FFF
  | .lbRead8000 a => inRange a 0x8000 0xFFFF
  | .lbWrite0000 a _ => inRange a 0x0000 0x1FFF
  | .lbWrite2000 a _ => inRange a 0x2000 0x3FFF
  | .lbWrite4000 a _ => inRange a 0x4000 0x5FFF
  | .lbWrite6000 a _ => inRange a 0x6000 0x7FFF
  | .lbWrite8000 a _ => inRange a 0x8000 0xFFFF
  | .lbReadRam _ => true
  | .lbWriteRam _ _ => true
  | .m2Read0000 a => inRange a 0x0000 0x3FFF
  | .m2Read4000 a => inRange a 0x4000 0x7FFF
  | .m2Read8000 a => inRange a 0x8000 0xFFFF
  | .m2WriteA8Clear a _ => inRange a 0x0000 0x3FFF && !a.getLsbD 8
  | .m2WriteA8Set a _ => inRange a 0x0000 0x3FFF && a.getLsbD 8
  | .m2Write4000 a _ => inRange a 0x4000 0xFFFF
  | .m2ReadRam _ => true
  | .m2WriteRam _ _ => true
  | .m3Read0000 a => inRange a 0x0000 0x3FFF
  | .m3Read4000 a => inRange a 0x4000 0x7FFF
  | .m3Read8000 a => inRange a 0x8000 0xFFFF
  | .m3Write0000 a _ => inRange a 0x0000 0x1FFF
  | .m3Write2000 a _ => inRange a 0x2000 0x3FFF
  | .m3Write4000 a _ => inRange a 0x4000 0x5FFF
  | .m3Write6000 a _ => inRange a 0x6000 0x7FFF
  | .m3Write8000 a _ => inRange a 0x8000 0xFFFF
  | .m3ReadRam _ => true
  | .m3WriteRam _ _ => true
  | .m5Read0000 a => inRange a 0x0000 0x3FFF
  | .m5Read4000 a => inRange a 0x4000 0x7FFF
  | .m5Read8000 a => inRange a 0x8000 0xFFFF
  | .m5Write0000 a _ => inRange a 0x0000 0x1FFF
  | .m5Write2000 a _ => inRange a 0x2000 0x2FFF
  | .m5Write3000 a _ => inRange a 0x3000 0x3FFF
  | .m5Write4000 a _ => inRange a 0x4000 0x5FFF
  | .m5Write6000 a _ => inRange a 0x6000 0xFFFF
  | .m5ReadRam _ => true
  | .m5WriteRam _ _ => true
  | .get8A => true
  | .get8B => true
  | .get8C => true
  | .get8D => true
  | .get8E => true
  | .get8H => true
  | .get8L => true
  | .set8A _ => true
  | .set8B _ => true
  | .set8C _ => true
  | .set8D _ => true
  | .set8E _ => true
  | .set8H _ => true
  | .set8L _ => true
  | .get16Af => true
  | .get16Bc => true
  | .get16De => true
  | .get16Hl => true
  | .get16Sp => true
  | .get16Pc => true
  | .set16Af _ => true
  | .set16Bc _ => true
  | .set16De _ => true
  | .set16Hl _ => true
  | .set16Sp _ => true
  | .set16Pc _ => true
  | .getfZ => true
  | .getfN => true
  | .getfH => true
  | .getfC => true
  | .setfZ _ => true
  | .setfN _ => true
  | .setfH _ => true
  | .setfC _ => true
  | .reset => true
  | .loadrom _ _ => true

/-- `Instr.wf` as a proposition. -/
abbrev Instr.WellFormed (i : Instr) : Prop := i.wf = true

/-- The variant whose rows an instruction belongs to; `none` for BUS, REG and CTL requests, which do not
depend on the active variant (R102). -/
def Instr.variant? : Instr → Option Variant
  | .rRom _ => none
  | .rVram _ => none
  | .rCram _ => none
  | .rWram _ => none
  | .rEcho _ => none
  | .rOam _ => none
  | .rUnmapped _ => none
  | .rIo _ => none
  | .rHram _ => none
  | .rIe _ => none
  | .wRom _ _ => none
  | .wVram _ _ => none
  | .wCram _ _ => none
  | .wWram _ _ => none
  | .wEcho _ _ => none
  | .wOam _ _ => none
  | .wUnmapped _ _ => none
  | .wIo _ _ => none
  | .wHram _ _ => none
  | .wIe _ _ => none
  | .rdw _ => none
  | .wrw _ _ => none
  | .nbRead0000 _ => some .noBanking
  | .nbRead8000 _ => some .noBanking
  | .nbWrite0000 _ _ => some .noBanking
  | .nbReadRam _ => some .noBanking
  | .nbWriteRam _ _ => some .noBanking
  | .lbRead0000 _ => some .linear
  | .lbRead4000 _ => some .linear
  | .lbRead8000 _ => some .linear
  | .lbWrite0000 _ _ => some .linear
  | .lbWrite2000 _ _ => some .linear
  | .lbWrite4000 _ _ => some .linear
  | .lbWrite6000 _ _ => some .linear
  | .lbWrite8000 _ _ => some .linear
  | .lbReadRam _ => some .linear
  | .lbWriteRam _ _ => some .linear
  | .m2Read0000 _ => some .mbc2
  | .m2Read4000 _ => some .mbc2
  | .m2Read8000 _ => some .mbc2
  | .m2WriteA8Clear _ _ => some .mbc2
  | .m2WriteA8Set _ _ => some .mbc2
  | .m2Write4000 _ _ => some .mbc2
  | .m2ReadRam _ => some .mbc2
  | .m2WriteRam _ _ => some .mbc2
  | .m3Read0000 _ => some .mbc3
  | .m3Read4000 _ => some .mbc3
  | .m3Read8000 _ => some .mbc3
  | .m3Write0000 _ _ => some .mbc3
  | .m3Write2000 _ _ => some .mbc3
  | .m3Write4000 _ _ => some .mbc3
  | .m3Write6000 _ _ => some .mbc3
  | .m3Write8000 _ _ => some .mbc3
  | .m3ReadRam _ => some .mbc3
  | .m3WriteRam _ _ => some .mbc3
  | .m5Read0000 _ => some .mbc5
  | .m5Read4000 _ => some .mbc5
  | .m5Read8000 _ => some .mbc5
  | .m5Write0000 _ _ => some .mbc5
  | .m5Write2000 _ _ => some .mbc5
  | .m5Write3000 _ _ => some .mbc5
  | .m5Write4000 _ _ => some .mbc5
  | .m5Write6000 _ _ => some .mbc5
  | .m5ReadRam _ => some .mbc5
  | .m5WriteRam _ _ => some .mbc5
  | .get8A => none
  | .get8B => none
  | .get8C => none
  | .get8D => none
  | .get8E => none
  | .get8H => none
  | .get8L => none
  | .set8A _ => none
  | .set8B _ => none
  | .set8C _ => none
  | .set8D _ => none
  | .set8E _ => none
  | .set8H _ => none
  | .set8L _ => none
  | .get16Af => none
  | .get16Bc => none
  | .get16De => none
  | .get16Hl => none
  | .get16Sp => none
  | .get16Pc => none
  | .set16Af _ => none
  | .set16Bc _ => none
  | .set16De _ => none
  | .set16Hl _ => none
  | .set16Sp _ => none
  | .set16Pc _ => none
  | .getfZ => none
  | .getfN => none
  | .getfH => none
  | .getfC => none
  | .setfZ _ => none
  | .setfN _ => none
  | .setfH _ => none
  | .setfC _ => none
  | .reset => none
  | .loadrom _ _ => none

/-- `i` may be what a word means while `v` is the active variant (R102: "A decoder matches `c` against the
rows of that variant only"). -/
abbrev Instr.fits (i : Instr) (v : Variant) : Prop := i.variant? = none ∨ i.variant? = some v

end Sys2Proof
end

