-- ==== Sys2Proof/Decode.lean ====
section
/-! DEFINITION. The decode map of 30_encoding.md: `decode`, total on every request, refusing the reserved
words by name, and after it `encode`, written from the same encoding tables. -/

namespace Sys2Proof

/-- Why a request has no meaning (30_encoding.md R112): EV4 `ReservedRequest`, which records the word
(60_exceptions.md R321). -/
inductive DecodeError where
  | reservedRequest (w : ReqWord)
deriving DecidableEq, Repr

/-- `v[7:0]` of a 16-bit operand (R107). -/
def loByte (v : Word) : Byte := v.extractLsb' 0 8

/-- `v[15:8]` of a 16-bit operand (R107). -/
def hiByte (v : Word) : Byte := v.extractLsb' 8 8

/-- The owner of an address (41_memory_map.md R170, R109). -/
def owner (a : Addr) : Region :=
  if a.toNat ≤ 0x7FFF then .cartRom
  else if a.toNat ≤ 0x9FFF then .vram
  else if a.toNat ≤ 0xBFFF then .cartRam
  else if a.toNat ≤ 0xDFFF then .wram
  else if a.toNat ≤ 0xFDFF then .echo
  else if a.toNat ≤ 0xFE9F then .oam
  else if a.toNat ≤ 0xFEFF then .unmapped
  else if a.toNat ≤ 0xFF7F then .io
  else if a.toNat ≤ 0xFFFE then .hram
  else .ie

/-- The byte read a BUS word with `q[17:16] = 00` asks for (R101, R109). -/
def decodeRead (a : Addr) : Instr :=
  match owner a with
  | .cartRom => .rRom a
  | .vram => .rVram a
  | .cartRam => .rCram a
  | .wram => .rWram a
  | .echo => .rEcho a
  | .oam => .rOam a
  | .unmapped => .rUnmapped a
  | .io => .rIo a
  | .hram => .rHram a
  | .ie => .rIe a

/-- The byte write a BUS word with `q[17:16] = 01` asks for (R101, R109). -/
def decodeWrite (a : Addr) (v : Byte) : Instr :=
  match owner a with
  | .cartRom => .wRom a v
  | .vram => .wVram a v
  | .cartRam => .wCram a v
  | .wram => .wWram a v
  | .echo => .wEcho a v
  | .oam => .wOam a v
  | .unmapped => .wUnmapped a v
  | .io => .wIo a v
  | .hram => .wHram a v
  | .ie => .wIe a v

/-- R101: `W` is bit 17, `D` is bit 16, `A` is bits 15:0. No BUS word is reserved or illegal. -/
def decodeBus (q : BitVec 18) (data : Word) : Instr :=
  let a : Addr := q.extractLsb' 0 16
  match q.getLsbD 17, q.getLsbD 16 with
  | false, false => decodeRead a
  | false, true => decodeWrite a (loByte data)
  | true, false => .rdw a
  | true, true => .wrw a data

/-- R110: a controller `read`, by variant and address. -/
def decodeCartRead (var : Variant) (a : Addr) : Instr :=
  match var with
  | .noBanking => if a.toNat ≤ 0x7FFF then .nbRead0000 a else .nbRead8000 a
  | .linear => if a.toNat ≤ 0x3FFF then .lbRead0000 a else if a.toNat ≤ 0x7FFF then .lbRead4000 a else .lbRead8000 a
  | .mbc2 => if a.toNat ≤ 0x3FFF then .m2Read0000 a else if a.toNat ≤ 0x7FFF then .m2Read4000 a else .m2Read8000 a
  | .mbc3 => if a.toNat ≤ 0x3FFF then .m3Read0000 a else if a.toNat ≤ 0x7FFF then .m3Read4000 a else .m3Read8000 a
  | .mbc5 => if a.toNat ≤ 0x3FFF then .m5Read0000 a else if a.toNat ≤ 0x7FFF then .m5Read4000 a else .m5Read8000 a

/-- R110: a controller `write`, by variant and address. -/
def decodeCartWrite (var : Variant) (a : Addr) (v : Byte) : Instr :=
  match var with
  | .noBanking => .nbWrite0000 a v
  | .linear =>
    if a.toNat ≤ 0x1FFF then .lbWrite0000 a v
    else if a.toNat ≤ 0x3FFF then .lbWrite2000 a v
    else if a.toNat ≤ 0x5FFF then .lbWrite4000 a v
    else if a.toNat ≤ 0x7FFF then .lbWrite6000 a v
    else .lbWrite8000 a v
  | .mbc2 =>
    if a.toNat ≤ 0x3FFF then (if a.getLsbD 8 then .m2WriteA8Set a v else .m2WriteA8Clear a v)
    else .m2Write4000 a v
  | .mbc3 =>
    if a.toNat ≤ 0x1FFF then .m3Write0000 a v
    else if a.toNat ≤ 0x3FFF then .m3Write2000 a v
    else if a.toNat ≤ 0x5FFF then .m3Write4000 a v
    else if a.toNat ≤ 0x7FFF then .m3Write6000 a v
    else .m3Write8000 a v
  | .mbc5 =>
    if a.toNat ≤ 0x1FFF then .m5Write0000 a v
    else if a.toNat ≤ 0x2FFF then .m5Write2000 a v
    else if a.toNat ≤ 0x3FFF then .m5Write3000 a v
    else if a.toNat ≤ 0x5FFF then .m5Write4000 a v
    else .m5Write6000 a v

/-- R110: a controller `readRAM`. -/
def decodeCartReadRam (var : Variant) (o : RamOffset) : Instr :=
  match var with
  | .noBanking => .nbReadRam o
  | .linear => .lbReadRam o
  | .mbc2 => .m2ReadRam o
  | .mbc3 => .m3ReadRam o
  | .mbc5 => .m5ReadRam o

/-- R110: a controller `writeRAM`. -/
def decodeCartWriteRam (var : Variant) (o : RamOffset) (v : Byte) : Instr :=
  match var with
  | .noBanking => .nbWriteRam o v
  | .linear => .lbWriteRam o v
  | .mbc2 => .m2WriteRam o v
  | .mbc3 => .m3WriteRam o v
  | .mbc5 => .m5WriteRam o v

/-- R102, R103: `OP` is bits 17:16, `A` bits 15:0. `readRAM` and `writeRAM` with `A[15:13] != 000` are
reserved. -/
def decodeCart (var : Variant) (c : BitVec 18) (data : Word) : Except DecodeError Instr :=
  let a : Addr := c.extractLsb' 0 16
  let o : RamOffset := c.extractLsb' 0 13
  match c.getLsbD 17, c.getLsbD 16 with
  | false, false => .ok (decodeCartRead var a)
  | false, true => .ok (decodeCartWrite var a (loByte data))
  | true, false => if a.toNat < 0x2000 then .ok (decodeCartReadRam var o) else .error (.reservedRequest (.cart c))
  | true, true => if a.toNat < 0x2000 then .ok (decodeCartWriteRam var o (loByte data)) else .error (.reservedRequest (.cart c))

/-- R104, R105: `D` is bit 7, `CLS` bits 6:4, `SEL` bits 3:0. -/
def decodeReg (r : BitVec 8) (data : Word) : Except DecodeError Instr :=
  match r.getLsbD 7, (r.extractLsb' 4 3).toNat, (r.extractLsb' 0 4).toNat with
  | false, 0, 0 => .ok .get8A
  | false, 0, 1 => .ok .get8B
  | false, 0, 2 => .ok .get8C
  | false, 0, 3 => .ok .get8D
  | false, 0, 4 => .ok .get8E
  | false, 0, 5 => .ok .get8H
  | false, 0, 6 => .ok .get8L
  | false, 1, 0 => .ok .get16Af
  | false, 1, 1 => .ok .get16Bc
  | false, 1, 2 => .ok .get16De
  | false, 1, 3 => .ok .get16Hl
  | false, 1, 4 => .ok .get16Sp
  | false, 1, 5 => .ok .get16Pc
  | false, 2, 0 => .ok .getfZ
  | false, 2, 1 => .ok .getfN
  | false, 2, 2 => .ok .getfH
  | false, 2, 3 => .ok .getfC
  | true, 0, 0 => .ok (.set8A (loByte data))
  | true, 0, 1 => .ok (.set8B (loByte data))
  | true, 0, 2 => .ok (.set8C (loByte data))
  | true, 0, 3 => .ok (.set8D (loByte data))
  | true, 0, 4 => .ok (.set8E (loByte data))
  | true, 0, 5 => .ok (.set8H (loByte data))
  | true, 0, 6 => .ok (.set8L (loByte data))
  | true, 1, 0 => .ok (.set16Af data)
  | true, 1, 1 => .ok (.set16Bc data)
  | true, 1, 2 => .ok (.set16De data)
  | true, 1, 3 => .ok (.set16Hl data)
  | true, 1, 4 => .ok (.set16Sp data)
  | true, 1, 5 => .ok (.set16Pc data)
  | true, 2, 0 => .ok (.setfZ (data.getLsbD 0))
  | true, 2, 1 => .ok (.setfN (data.getLsbD 0))
  | true, 2, 2 => .ok (.setfH (data.getLsbD 0))
  | true, 2, 3 => .ok (.setfC (data.getLsbD 0))
  | _, _, _ => .error (.reservedRequest (.reg r))

/-- R106: 0x00 is `reset()`, 0x01 is `loadROM(image, code)`, every other word is reserved. -/
def decodeCtl (k : BitVec 8) (data : Word) (image : List Byte) : Except DecodeError Instr :=
  match k.toNat with
  | 0 => .ok .reset
  | 1 => .ok (.loadrom image (loByte data))
  | _ => .error (.reservedRequest (.ctl k))

/-- The decoder of the block: the format picks the table (R101 to R106), and for a CART word the active
variant picks the rows (R102, R110). -/
def decode (var : Variant) (r : Request) : Except DecodeError Instr :=
  match r.word with
  | .bus q => .ok (decodeBus q r.data)
  | .cart c => decodeCart var c r.data
  | .reg x => decodeReg x r.data
  | .ctl k => decodeCtl k r.data r.image

/-! ## The encoder -/

/-- R101, R114: `W` at bit 17, `D` at bit 16, the address below. -/
def busWord (w d : Bool) (a : Addr) : ReqWord :=
  .bus (BitVec.ofNat 18 (w.toNat * 0x20000 + d.toNat * 0x10000 + a.toNat))

/-- R102: `OP` at bits 17:16, the address or the RAM offset below. -/
def cartWord (op : BitVec 2) (a : Addr) : ReqWord := .cart (BitVec.ofNat 18 (op.toNat * 0x10000 + a.toNat))

/-- R104: `D` at bit 7, `CLS` at bits 6:4, `SEL` at bits 3:0. -/
def regWord (d : Bool) (cls : BitVec 3) (sel : BitVec 4) : ReqWord :=
  .reg (BitVec.ofNat 8 (d.toNat * 0x80 + cls.toNat * 0x10 + sel.toNat))

/-- The request of an instruction. Operand bits its rule does not name are 0. -/
def encode : Instr → Request
  | .rRom a => ⟨busWord false false a, 0, []⟩
  | .rVram a => ⟨busWord false false a, 0, []⟩
  | .rCram a => ⟨busWord false false a, 0, []⟩
  | .rWram a => ⟨busWord false false a, 0, []⟩
  | .rEcho a => ⟨busWord false false a, 0, []⟩
  | .rOam a => ⟨busWord false false a, 0, []⟩
  | .rUnmapped a => ⟨busWord false false a, 0, []⟩
  | .rIo a => ⟨busWord false false a, 0, []⟩
  | .rHram a => ⟨busWord false false a, 0, []⟩
  | .rIe a => ⟨busWord false false a, 0, []⟩
  | .wRom a v => ⟨busWord false true a, v.setWidth 16, []⟩
  | .wVram a v => ⟨busWord false true a, v.setWidth 16, []⟩
  | .wCram a v => ⟨busWord false true a, v.setWidth 16, []⟩
  | .wWram a v => ⟨busWord false true a, v.setWidth 16, []⟩
  | .wEcho a v => ⟨busWord false true a, v.setWidth 16, []⟩
  | .wOam a v => ⟨busWord false true a, v.setWidth 16, []⟩
  | .wUnmapped a v => ⟨busWord false true a, v.setWidth 16, []⟩
  | .wIo a v => ⟨busWord false true a, v.setWidth 16, []⟩
  | .wHram a v => ⟨busWord false true a, v.setWidth 16, []⟩
  | .wIe a v => ⟨busWord false true a, v.setWidth 16, []⟩
  | .rdw a => ⟨busWord true false a, 0, []⟩
  | .wrw a v => ⟨busWord true true a, v, []⟩
  | .nbRead0000 a => ⟨cartWord 0 a, 0, []⟩
  | .nbRead8000 a => ⟨cartWord 0 a, 0, []⟩
  | .nbWrite0000 a v => ⟨cartWord 1 a, v.setWidth 16, []⟩
  | .nbReadRam o => ⟨cartWord 2 (o.setWidth 16), 0, []⟩
  | .nbWriteRam o v => ⟨cartWord 3 (o.setWidth 16), v.setWidth 16, []⟩
  | .lbRead0000 a => ⟨cartWord 0 a, 0, []⟩
  | .lbRead4000 a => ⟨cartWord 0 a, 0, []⟩
  | .lbRead8000 a => ⟨cartWord 0 a, 0, []⟩
  | .lbWrite0000 a v => ⟨cartWord 1 a, v.setWidth 16, []⟩
  | .lbWrite2000 a v => ⟨cartWord 1 a, v.setWidth 16, []⟩
  | .lbWrite4000 a v => ⟨cartWord 1 a, v.setWidth 16, []⟩
  | .lbWrite6000 a v => ⟨cartWord 1 a, v.setWidth 16, []⟩
  | .lbWrite8000 a v => ⟨cartWord 1 a, v.setWidth 16, []⟩
  | .lbReadRam o => ⟨cartWord 2 (o.setWidth 16), 0, []⟩
  | .lbWriteRam o v => ⟨cartWord 3 (o.setWidth 16), v.setWidth 16, []⟩
  | .m2Read0000 a => ⟨cartWord 0 a, 0, []⟩
  | .m2Read4000 a => ⟨cartWord 0 a, 0, []⟩
  | .m2Read8000 a => ⟨cartWord 0 a, 0, []⟩
  | .m2WriteA8Clear a v => ⟨cartWord 1 a, v.setWidth 16, []⟩
  | .m2WriteA8Set a v => ⟨cartWord 1 a, v.setWidth 16, []⟩
  | .m2Write4000 a v => ⟨cartWord 1 a, v.setWidth 16, []⟩
  | .m2ReadRam o => ⟨cartWord 2 (o.setWidth 16), 0, []⟩
  | .m2WriteRam o v => ⟨cartWord 3 (o.setWidth 16), v.setWidth 16, []⟩
  | .m3Read0000 a => ⟨cartWord 0 a, 0, []⟩
  | .m3Read4000 a => ⟨cartWord 0 a, 0, []⟩
  | .m3Read8000 a => ⟨cartWord 0 a, 0, []⟩
  | .m3Write0000 a v => ⟨cartWord 1 a, v.setWidth 16, []⟩
  | .m3Write2000 a v => ⟨cartWord 1 a, v.setWidth 16, []⟩
  | .m3Write4000 a v => ⟨cartWord 1 a, v.setWidth 16, []⟩
  | .m3Write6000 a v => ⟨cartWord 1 a, v.setWidth 16, []⟩
  | .m3Write8000 a v => ⟨cartWord 1 a, v.setWidth 16, []⟩
  | .m3ReadRam o => ⟨cartWord 2 (o.setWidth 16), 0, []⟩
  | .m3WriteRam o v => ⟨cartWord 3 (o.setWidth 16), v.setWidth 16, []⟩
  | .m5Read0000 a => ⟨cartWord 0 a, 0, []⟩
  | .m5Read4000 a => ⟨cartWord 0 a, 0, []⟩
  | .m5Read8000 a => ⟨cartWord 0 a, 0, []⟩
  | .m5Write0000 a v => ⟨cartWord 1 a, v.setWidth 16, []⟩
  | .m5Write2000 a v => ⟨cartWord 1 a, v.setWidth 16, []⟩
  | .m5Write3000 a v => ⟨cartWord 1 a, v.setWidth 16, []⟩
  | .m5Write4000 a v => ⟨cartWord 1 a, v.setWidth 16, []⟩
  | .m5Write6000 a v => ⟨cartWord 1 a, v.setWidth 16, []⟩
  | .m5ReadRam o => ⟨cartWord 2 (o.setWidth 16), 0, []⟩
  | .m5WriteRam o v => ⟨cartWord 3 (o.setWidth 16), v.setWidth 16, []⟩
  | .get8A => ⟨regWord false 0 0, 0, []⟩
  | .get8B => ⟨regWord false 0 1, 0, []⟩
  | .get8C => ⟨regWord false 0 2, 0, []⟩
  | .get8D => ⟨regWord false 0 3, 0, []⟩
  | .get8E => ⟨regWord false 0 4, 0, []⟩
  | .get8H => ⟨regWord false 0 5, 0, []⟩
  | .get8L => ⟨regWord false 0 6, 0, []⟩
  | .set8A v => ⟨regWord true 0 0, v.setWidth 16, []⟩
  | .set8B v => ⟨regWord true 0 1, v.setWidth 16, []⟩
  | .set8C v => ⟨regWord true 0 2, v.setWidth 16, []⟩
  | .set8D v => ⟨regWord true 0 3, v.setWidth 16, []⟩
  | .set8E v => ⟨regWord true 0 4, v.setWidth 16, []⟩
  | .set8H v => ⟨regWord true 0 5, v.setWidth 16, []⟩
  | .set8L v => ⟨regWord true 0 6, v.setWidth 16, []⟩
  | .get16Af => ⟨regWord false 1 0, 0, []⟩
  | .get16Bc => ⟨regWord false 1 1, 0, []⟩
  | .get16De => ⟨regWord false 1 2, 0, []⟩
  | .get16Hl => ⟨regWord false 1 3, 0, []⟩
  | .get16Sp => ⟨regWord false 1 4, 0, []⟩
  | .get16Pc => ⟨regWord false 1 5, 0, []⟩
  | .set16Af v => ⟨regWord true 1 0, v, []⟩
  | .set16Bc v => ⟨regWord true 1 1, v, []⟩
  | .set16De v => ⟨regWord true 1 2, v, []⟩
  | .set16Hl v => ⟨regWord true 1 3, v, []⟩
  | .set16Sp v => ⟨regWord true 1 4, v, []⟩
  | .set16Pc v => ⟨regWord true 1 5, v, []⟩
  | .getfZ => ⟨regWord false 2 0, 0, []⟩
  | .getfN => ⟨regWord false 2 1, 0, []⟩
  | .getfH => ⟨regWord false 2 2, 0, []⟩
  | .getfC => ⟨regWord false 2 3, 0, []⟩
  | .setfZ b => ⟨regWord true 2 0, (BitVec.ofBool b).setWidth 16, []⟩
  | .setfN b => ⟨regWord true 2 1, (BitVec.ofBool b).setWidth 16, []⟩
  | .setfH b => ⟨regWord true 2 2, (BitVec.ofBool b).setWidth 16, []⟩
  | .setfC b => ⟨regWord true 2 3, (BitVec.ofBool b).setWidth 16, []⟩
  | .reset => ⟨.ctl 0x00, 0, []⟩
  | .loadrom image code => ⟨.ctl 0x01, code.setWidth 16, image⟩

/-! ## The words of spec/opcode_table.json -/

/-- A word as spec/opcode_table.json numbers it, as the request the host's question is about: a row of three
bytes is a BUS word and a row of one byte a REG word, with every operand bit 0. The table's CART rows have the
words of its BUS rows, and its two CTL rows the words of two REG rows: a word alone does not name its format,
which is the port it arrives on (log 10). A word wider than its format is reduced modulo 2^width (R108). -/
def tableRequest (nbits w : Nat) : Request :=
  if nbits ≤ 8 then ⟨.reg (BitVec.ofNat 8 w), 0, []⟩ else ⟨.bus (BitVec.ofNat 18 w), 0, []⟩

/-- What the decoder reads from the word `w` of a table row of `nbits` bits. -/
def decodeTableWord (nbits w : Nat) : Option Instr :=
  match decode .noBanking (tableRequest nbits w) with
  | .ok i => some i
  | .error _ => none

end Sys2Proof
end

