-- ==== Sys2Proof/Config.lean ====
section
/-! DEFINITION. The fixed capacities of 00_scope.md R8 and R9 and 10_state.md R38, and the two
free values of 00_scope.md R10. The parameters an instance is built with (`INDEX_VIOLATION`,
`EXTENDED_MBC`, `CART_RAM_INIT`) are plain data in `State.params`, so that a claim about every state
is a claim about every choice of them (log 4 and 6). -/

namespace Sys2Proof

/-- R8: the staging buffer, and the ROM copy a NoBanking controller holds (R38). -/
def Config.stagingSize : Nat := 0x8000
/-- R8. -/
def Config.vramSize : Nat := 0x2000
/-- R8. -/
def Config.xramSize : Nat := 0x2000
/-- R8. -/
def Config.wramSize : Nat := 0x2000
/-- R8: the buffer has 0x100 bytes; the decode table reaches the first 0xA0 of them (R29). -/
def Config.oamSize : Nat := 0x100
/-- R29: how many OAM bytes an address can reach. -/
def Config.oamReachable : Nat := 0xA0
/-- R8. -/
def Config.ioSize : Nat := 0x80
/-- R8. -/
def Config.hramSize : Nat := 0x7F
/-- R8: one ROM bank. -/
def Config.romBankSize : Nat := 0x4000
/-- R8: one RAM bank. -/
def Config.ramBankSize : Nat := 0x2000
/-- R38: the NoBanking RAM array. -/
def Config.noBankingRamSize : Nat := 0x2000
/-- R9, R38: the LinearBanking RAM array. -/
def Config.linearRamSize : Nat := 0x8000
/-- R38, R262: the MBC2 cells, of 4 bits each. -/
def Config.mbc2Cells : Nat := 0x200
/-- R38, R271: the MBC3 RAM array. -/
def Config.mbc3RamSize : Nat := 0x8000
/-- R38, R283: the MBC5 RAM array. -/
def Config.mbc5RamSize : Nat := 0x20000

/-- The free value `MBC2_RAM_HIGH` (R10, R269; 92_eei_decisions.md D17): the upper nibble of the n-th
draw. Nothing is known of it (log 7). -/
opaque Config.mbc2RamHigh : Nat → BitVec 4

/-- The free value `RTC_READ` (R10, R281; 92_eei_decisions.md D18): the byte of the n-th draw. Nothing is
known of it (log 8). -/
opaque Config.rtcRead : Nat → Byte

end Sys2Proof
end

