-- ==== Sys2Proof/Machine/State.lean ====
section
/-! DEFINITION. The state of one machine instance (10_state.md R20 to R38, R46), as plain data, and the ways
a request can end other than in a next state (60_exceptions.md R321).

A byte buffer is a sparse list of cells in one canonical form (log 21): indices strictly rising, and no cell
equal to what an unlisted index reads as (`Memory.wf` in Machine/Ops.lean). -/

namespace Sys2Proof.Machine

/-- Cells of `w` bits, by index. -/
abbrev Cells (w : Nat) := List (Nat × BitVec w)

/-- A byte buffer. -/
abbrev Memory := List Host.Cell

/-- A byte string (00_scope.md R10, R11): its length, and its bytes by offset; an offset below `len` that is
not listed holds 0x00 (log 21). -/
structure Image where
  len   : Nat
  cells : Memory
deriving DecidableEq, Repr

/-- The register file (R20 to R25). `f`, `af`, `bc`, `de` and `hl` are views (R22, R39). -/
structure RegFile where
  a  : Byte
  b  : Byte
  c  : Byte
  d  : Byte
  e  : Byte
  h  : Byte
  l  : Byte
  zf : Bool
  nf : Bool
  hf : Bool
  cf : Bool
  sp : Word
  pc : Word
deriving DecidableEq, Repr

/-- R221. -/
structure NoBanking where
  rom : Memory
  ram : Memory
deriving DecidableEq, Repr

/-- R34, R226. -/
structure LinearBanking where
  rom           : Image
  ram           : Memory
  romBankSelect : BitVec 7
  ramBankSelect : BitVec 2
  ramEnabled    : Bool
  bankingMode   : BitVec 1
deriving DecidableEq, Repr

/-- R35, R262. -/
structure Mbc2 where
  rom        : Image
  ram        : Cells 4
  romBank    : BitVec 4
  ramEnabled : Bool
deriving DecidableEq, Repr

/-- R36, R271. -/
structure Mbc3 where
  rom        : Image
  ram        : Memory
  romBank    : BitVec 7
  select     : BitVec 8
  ramEnabled : Bool
deriving DecidableEq, Repr

/-- R37, R283. -/
structure Mbc5 where
  rom        : Image
  ram        : Memory
  romBankLo  : BitVec 8
  romBankHi  : BitVec 1
  ramBank    : BitVec 4
  ramEnabled : Bool
deriving DecidableEq, Repr

/-- The controller of 10_state.md R20. -/
inductive Controller where
  | noBanking (c : NoBanking)
  | linear (c : LinearBanking)
  | mbc2 (c : Mbc2)
  | mbc3 (c : Mbc3)
  | mbc5 (c : Mbc5)
deriving DecidableEq, Repr

/-- The memory map (R20, R26 to R32). -/
structure MemoryMap where
  staging : Memory
  vram    : Memory
  xram    : Memory
  wram    : Memory
  oam     : Memory
  io      : Memory
  hram    : Memory
  ie      : Byte
  cart    : Option Controller
deriving DecidableEq, Repr

/-- The byte buffers of R26, by name. -/
inductive Buffer where
  | staging | vram | xram | wram | oam | io | hram
deriving DecidableEq, Repr

/-- `INDEX_VIOLATION` (00_scope.md R10, 60_exceptions.md R322). -/
inductive IndexPolicy where
  | degrade | fault
deriving DecidableEq, Repr

/-- `EXTENDED_MBC` (00_scope.md R10, 43_mbc_extended.md R260). -/
inductive ExtendedMbc where
  | gk | refuse
deriving DecidableEq, Repr

/-- `CART_RAM_INIT` (00_scope.md R10, 10_state.md R38): the RAM contents of a fresh controller of each
variant. An unlisted cell is 0x00. -/
structure RamInit where
  noBanking : Memory
  linear    : Memory
  mbc2      : Memory
  mbc3      : Memory
  mbc5      : Memory
deriving DecidableEq, Repr

/-- The parameters an instance is built with (00_scope.md R10). No request writes them. -/
structure Params where
  indexViolation : IndexPolicy
  extendedMbc    : ExtendedMbc
  ramInit        : RamInit
deriving DecidableEq, Repr

/-- What the last completed request handed its caller (00_scope.md R14). -/
inductive Response where
  /-- No request has completed yet. -/
  | idle
  /-- Completed, with no result (a write, a SET, RESET). -/
  | done
  /-- The 8-bit result of a byte read or a GET8. -/
  | byte (v : Byte)
  /-- The 16-bit result of a word read or a GET16. -/
  | word (v : Word)
  /-- The 1-bit result of a GETF. -/
  | flag (b : Bool)
  /-- The output of `loadROM` (R196, R323): `some code` is `warn(code)`, `none` is no warning. -/
  | loaded (warn : Option Byte)
deriving DecidableEq, Repr

/-- The machine instance: `rf` and `mm` are the spec's whole state (R20); `params` are its parameters (R10);
`draws`, `pending` and `resp` are the model's own (log 1, 3, 9). -/
structure State where
  rf      : RegFile
  mm      : MemoryMap
  params  : Params
  draws   : Nat
  pending : List Request
  resp    : Response
deriving DecidableEq, Repr

/-- What stops the machine. -/
inductive Fault where
  /-- EV2 (60_exceptions.md R321, R322): a bank-0 ROM read at `a`, at or beyond the image's length, while
  `INDEX_VIOLATION = fault`. Raised by the bank-0 read of LinearBanking, MBC2, MBC3 and MBC5, by a BUS read
  that reaches it, and by the word reads made of such reads. Safe: the spec's own debug-build stop, and no
  later request is taken. -/
  | internalIndexViolation (a : Addr)
deriving DecidableEq, Repr

/-- What the model gives no step. -/
inductive Refusal where
  /-- An instruction whose meaning is not written. Safe. No arm of `exec` answers it in this model. -/
  | notModelled (mnemonic : String)
  /-- EV4 (R321, 30_encoding.md R112): a reserved CART, REG or CTL word. Raised by the step when the decoder
  refuses the word. Safe: the spec refuses it too. -/
  | reservedRequest (w : ReqWord)
  /-- EV3 (R321, R196): `loadROM` of an MBC2, MBC3 or MBC5 code while `EXTENDED_MBC = refuse`. Safe: the
  spec refuses it too. -/
  | unmodelledVariant (code : Byte)
  /-- A CART instruction of `wanted`'s rows, given to `exec` in a state whose active controller is another
  variant. R102 matches a word against the active variant's rows only, so no step raises it (log 12). Safe. -/
  | otherVariant (wanted : Variant)
deriving DecidableEq, Repr

/-- The outcome of one request. -/
abbrev Out := Host.Outcome State Fault Refusal

/-- The memory map of a fresh instance (R350): every buffer as an unlisted index reads, so `io` holds the
power-on values of R199 and every other buffer 0x00. -/
def MemoryMap.fresh : MemoryMap :=
  { staging := [], vram := [], xram := [], wram := [], oam := [], io := [], hram := [], ie := 0x00#8, cart := none }

/-- The construction of an instance (70_reset_and_hazards.md R350) with its parameters and `REG_INIT`. -/
def State.construct (p : Params) (regInit : RegFile) : State :=
  { rf := regInit, mm := .fresh, params := p, draws := 0, pending := [], resp := .idle }

/-- The `REG_INIT` of `State.reset`: all zero. DESIGN CHOICE, unsafe (log 5). -/
def RegFile.zero : RegFile :=
  { a := 0, b := 0, c := 0, d := 0, e := 0, h := 0, l := 0, zf := false, nf := false, hf := false, cf := false,
    sp := 0, pc := 0 }

/-- The parameters of `State.reset`: the spec's defaults (D13, D15), and `CART_RAM_INIT` all 0x00 (DESIGN
CHOICE, unsafe, log 6). -/
def Params.default : Params :=
  { indexViolation := .degrade, extendedMbc := .gk,
    ramInit := { noBanking := [], linear := [], mbc2 := [], mbc3 := [], mbc5 := [] } }

/-- The machine right after construction (R46, R350). -/
def State.reset : State := .construct .default .zero

end Sys2Proof.Machine
end

