-- ==== Sys2Proof/Machine/Ops.lean ====
section
/-! DEFINITION. The named operations over buffers, images, the memory map and the state, and the one way a
request can stop: the out-of-range internal index of 60_exceptions.md R322. The block has no trap to take and
none to return from (R328, R329). -/

namespace Sys2Proof.Machine

/-! ## Buffers

`blank i` is what an unlisted index reads as; `Buffer.blank` below says it for each buffer, once. -/

/-- The cell at index `i`. -/
def Memory.get {w : Nat} (blank : Nat → BitVec w) : Cells w → Nat → BitVec w
  | [], i => blank i
  | (k, v) :: rest, i => if i = k then v else Memory.get blank rest i

/-- The buffer with every cell of index `i` unlisted. -/
def Memory.drop {w : Nat} (m : Cells w) (i : Nat) : Cells w := m.filter fun c => c.1 ≠ i

/-- The buffer with a cell put before the first one of a greater index. -/
def Memory.insert {w : Nat} : Cells w → Nat → BitVec w → Cells w
  | [], i, v => [(i, v)]
  | (k, x) :: rest, i, v => if i < k then (i, v) :: (k, x) :: rest else (k, x) :: Memory.insert rest i v

/-- `buf[i] <- v` (00_scope.md R13), keeping the canonical form: a value that an unlisted index reads as is
not listed. -/
def Memory.set {w : Nat} (blank : Nat → BitVec w) (m : Cells w) (i : Nat) (v : BitVec w) : Cells w :=
  if v = blank i then Memory.drop m i else Memory.insert (Memory.drop m i) i v

/-- The canonical form, for the cells from index `lo` on: indices strictly rising and below `size`, no cell
equal to what an unlisted index reads as. -/
def Memory.wfFrom {w : Nat} (blank : Nat → BitVec w) (size : Nat) : Nat → Cells w → Bool
  | _, [] => true
  | lo, (k, v) :: rest => decide (lo ≤ k ∧ k < size) && decide (v ≠ blank k) && Memory.wfFrom blank size (k + 1) rest

/-- The canonical form of a buffer of `size` cells. -/
def Memory.wf {w : Nat} (blank : Nat → BitVec w) (size : Nat) (m : Cells w) : Bool := Memory.wfFrom blank size 0 m

/-- The cells of a byte string laid out from index `k` on, in a buffer whose unlisted cells are 0x00. -/
def Memory.ofBytesFrom : Nat → List Byte → Memory
  | _, [] => []
  | k, b :: rest => if b = 0 then Memory.ofBytesFrom (k + 1) rest else (k, b) :: Memory.ofBytesFrom (k + 1) rest

/-- Unlisted cells of every buffer but `io` read 0x00 (10_state.md R26, R46). -/
def zeroCell {w : Nat} (_ : Nat) : BitVec w := 0

/-- A buffer of `size` cells holding what `init` holds below `size`, through `f`; every cell that `f` makes 0
is unlisted. `CART_RAM_INIT` enters a fresh RAM array through it (10_state.md R38). -/
def Memory.fresh {u w : Nat} (f : BitVec u → BitVec w) (size : Nat) (init : Cells u) : Cells w :=
  init.foldr (fun c acc => if c.1 < size then Memory.set zeroCell acc c.1 (f c.2) else acc) []

/-! ## Images -/

/-- A byte string as an image. -/
def Image.ofBytes (bytes : List Byte) : Image := { len := bytes.length, cells := Memory.ofBytesFrom 0 bytes }

/-- Byte `off` of an image; a rule that reads one checks `off < len` first (00_scope.md R15). -/
def Image.byte (img : Image) (off : Nat) : Byte := Memory.get zeroCell img.cells off

/-! ## The I/O power-on table -/

/-- `IO_DEFAULTS` of 41_memory_map.md R199 with 0xFF00 <= addr <= 0xFF7F. Its 0xFFFF entry is the `ie` clear of
`reset()` (90_conflicts.md C2). -/
def ioDefaults : List (Nat × Byte) :=
  [(0xFF05, 0x00), (0xFF06, 0x00), (0xFF07, 0x00), (0xFF10, 0x80), (0xFF11, 0xBF), (0xFF12, 0xF3), (0xFF14, 0xBF),
   (0xFF16, 0x3F), (0xFF19, 0xBF), (0xFF1A, 0x7F)] ++
  [(0xFF1B, 0xFF), (0xFF1C, 0x9F), (0xFF1E, 0xBF), (0xFF20, 0xFF), (0xFF23, 0xBF), (0xFF24, 0x77), (0xFF25, 0xF3),
   (0xFF26, 0xF1), (0xFF40, 0x91), (0xFF47, 0xFC), (0xFF48, 0xFF), (0xFF49, 0xFF)]

/-- The power-on value of I/O byte `i`: the table's, and 0x00 for a byte the table omits (R199). -/
def ioDefault (i : Nat) : Byte :=
  match ioDefaults.find? fun e => e.1 == 0xFF00 + i with
  | some e => e.2
  | none => 0x00

/-! ## The memory map's buffers -/

/-- What an unlisted index of each buffer reads as: its contents after construction (R46). -/
def Buffer.blank : Buffer → Nat → Byte
  | .io => ioDefault
  | _ => zeroCell

/-- The capacities of R26. -/
def Buffer.size : Buffer → Nat
  | .staging => Config.stagingSize
  | .vram => Config.vramSize
  | .xram => Config.xramSize
  | .wram => Config.wramSize
  | .oam => Config.oamSize
  | .io => Config.ioSize
  | .hram => Config.hramSize

/-- The contents of a buffer. -/
def MemoryMap.buf (mm : MemoryMap) : Buffer → Memory
  | .staging => mm.staging
  | .vram => mm.vram
  | .xram => mm.xram
  | .wram => mm.wram
  | .oam => mm.oam
  | .io => mm.io
  | .hram => mm.hram

/-- The memory map with the contents of one buffer replaced. -/
def MemoryMap.withBuf (mm : MemoryMap) (b : Buffer) (m : Memory) : MemoryMap :=
  match b with
  | .staging => { mm with staging := m }
  | .vram => { mm with vram := m }
  | .xram => { mm with xram := m }
  | .wram => { mm with wram := m }
  | .oam => { mm with oam := m }
  | .io => { mm with io := m }
  | .hram => { mm with hram := m }

/-- `buf[i]` (R13). -/
def MemoryMap.load (mm : MemoryMap) (b : Buffer) (i : Nat) : Byte := Memory.get b.blank (mm.buf b) i

/-- `buf[i] <- v` (R13). -/
def MemoryMap.store (mm : MemoryMap) (b : Buffer) (i : Nat) (v : Byte) : MemoryMap :=
  mm.withBuf b (Memory.set b.blank (mm.buf b) i v)

/-! ## The effective controller -/

/-- `ctl()` of 41_memory_map.md R195: the controller, and before the first `loadROM` the pre-load controller,
which "behaves as NoBanking ... with `staging` as its ROM and `xram` as its RAM array". -/
def MemoryMap.ctl (mm : MemoryMap) : Controller :=
  match mm.cart with
  | some c => c
  | none => .noBanking { rom := mm.staging, ram := mm.xram }

/-- The memory map after the effective controller has become `c`: the pre-load controller keeps its RAM in
`xram` (R195) and never changes `staging`. -/
def MemoryMap.withCtl (mm : MemoryMap) (c : Controller) : MemoryMap :=
  match mm.cart, c with
  | some _, c => { mm with cart := some c }
  | none, .noBanking nb => { mm with xram := nb.ram }
  | none, _ => mm

/-- The kind of a controller (00_scope.md R17). -/
def Controller.variant : Controller → Variant
  | .noBanking _ => .noBanking
  | .linear _ => .linear
  | .mbc2 _ => .mbc2
  | .mbc3 _ => .mbc3
  | .mbc5 _ => .mbc5

/-- The variant a CART word is matched against (R102); before the first `loadROM` NoBanking, as which the
pre-load controller behaves (R195; log 11). -/
def State.variant (s : State) : Variant := s.mm.ctl.variant

/-! ## The state -/

/-- The state with another memory map. -/
def State.withMm (s : State) (mm : MemoryMap) : State := { s with mm := mm }

/-- The state with another register file. -/
def State.withRf (s : State) (rf : RegFile) : State := { s with rf := rf }

/-- The state after a request that hands its caller `r`. -/
def State.respond (s : State) (r : Response) : State := { s with resp := r }

/-- The state after `n` free values in all have been drawn. -/
def State.withDraws (s : State) (n : Nat) : State := { s with draws := n }

/-- The state with other requests waiting. -/
def State.withPending (s : State) (p : List Request) : State := { s with pending := p }

/-- The state with other effective-controller contents. -/
def State.withCtl (s : State) (c : Controller) : State := s.withMm (s.mm.withCtl c)

/-! ## How a request ends -/

/-- `internalIndex(0xFF, ("rom", a))` of 42_mbc_nobanking_linear.md R228 and 60_exceptions.md R322: 0xFF in the
production build, the fault EV2 in the debug build. The one place where a request can raise. -/
def internalIndex (p : IndexPolicy) (a : Addr) : Except Fault Byte :=
  match p with
  | .degrade => .ok 0xFF
  | .fault => .error (.internalIndexViolation a)

/-- What a read that draws no free value hands on: its byte and the number of free values drawn so far. -/
def noDraw (draws : Nat) : Except Fault Byte → Except Fault (Byte × Nat)
  | .ok v => .ok (v, draws)
  | .error f => .error f

/-- A byte read completes with its byte, or raises. -/
def State.answerByte (s : State) : Except Fault (Byte × Nat) → Out
  | .ok (v, n) => .next ((s.withDraws n).respond (.byte v))
  | .error f => .fault f

/-- A word read completes with its word, or raises. -/
def State.answerWord (s : State) : Except Fault (Word × Nat) → Out
  | .ok (v, n) => .next ((s.withDraws n).respond (.word v))
  | .error f => .fault f

/-- A request that writes memory-map state completes. -/
def State.finishMm (s : State) (mm : MemoryMap) : Out := .next ((s.withMm mm).respond .done)

/-- A request that writes the register file completes. -/
def State.finishRf (s : State) (rf : RegFile) : Out := .next ((s.withRf rf).respond .done)

/-- A GET8 completes with the register's byte (R132). -/
def State.giveByte (s : State) (v : Byte) : Out := .next (s.respond (.byte v))

/-- A GET16 completes with the composite's word (R134, R136). -/
def State.giveWord (s : State) (v : Word) : Out := .next (s.respond (.word v))

/-- A GETF completes with the flag (R142). -/
def State.giveFlag (s : State) (b : Bool) : Out := .next (s.respond (.flag b))

/-- A NoBanking row's meaning, where the active variant is NoBanking (R102, R195). -/
def State.onNoBanking (s : State) (k : NoBanking → Out) : Out :=
  match s.mm.ctl with
  | .noBanking c => k c
  | _ => .refused (.otherVariant .noBanking)

/-- A LinearBanking row's meaning, where the active variant is LinearBanking (R102). -/
def State.onLinear (s : State) (k : LinearBanking → Out) : Out :=
  match s.mm.ctl with
  | .linear c => k c
  | _ => .refused (.otherVariant .linear)

/-- An MBC2 row's meaning, where the active variant is MBC2 (R102). -/
def State.onMbc2 (s : State) (k : Mbc2 → Out) : Out :=
  match s.mm.ctl with
  | .mbc2 c => k c
  | _ => .refused (.otherVariant .mbc2)

/-- An MBC3 row's meaning, where the active variant is MBC3 (R102). -/
def State.onMbc3 (s : State) (k : Mbc3 → Out) : Out :=
  match s.mm.ctl with
  | .mbc3 c => k c
  | _ => .refused (.otherVariant .mbc3)

/-- An MBC5 row's meaning, where the active variant is MBC5 (R102). -/
def State.onMbc5 (s : State) (k : Mbc5 → Out) : Out :=
  match s.mm.ctl with
  | .mbc5 c => k c
  | _ => .refused (.otherVariant .mbc5)

/-- A CART write completes: the effective controller becomes `c`. -/
def State.finishCtl (s : State) (c : Controller) : Out := .next ((s.withCtl c).respond .done)

end Sys2Proof.Machine
end

