-- ==== Sys2Proof/Machine/Operands.lean ====
section
/-! DEFINITION. Operand assembly (30_encoding.md R107): the index into each region, the RAM offset, the halves
of a 16-bit operand, and the bank arithmetic the controllers share (43_mbc_extended.md R261). -/

namespace Sys2Proof.Machine

/-- `{hi, lo}` of two bytes (00_scope.md R12). -/
def joinBytes (hi lo : Byte) : Word := hi ++ lo

/-- The address of the second byte of a word access, modulo 0x10000 (R76, R193; log 14). -/
def nextAddr (a : Addr) : Addr := a + 1

/-! ## Region-relative indices (41_memory_map.md R170) -/

/-- Row 2. -/
def vramIndex (a : Addr) : Nat := a.toNat - 0x8000
/-- Row 3: the offset handed to `readRAM` and `writeRAM`. -/
def ramOffset (a : Addr) : RamOffset := BitVec.ofNat 13 (a.toNat - 0xA000)
/-- Row 4. -/
def wramIndex (a : Addr) : Nat := a.toNat - 0xC000
/-- Row 5: the WRAM byte at `addr - 0x2000`. -/
def echoIndex (a : Addr) : Nat := a.toNat - 0xE000
/-- Row 6. -/
def oamIndex (a : Addr) : Nat := a.toNat - 0xFE00
/-- Row 8. -/
def ioIndex (a : Addr) : Nat := a.toNat - 0xFF00
/-- Row 9. -/
def hramIndex (a : Addr) : Nat := a.toNat - 0xFF80

/-! ## Controller operands -/

/-- The RAM-enable test (42_mbc_nobanking_linear.md R231, 43_mbc_extended.md R261): only the low nibble
counts. -/
def enableTest (v : Byte) : Bool := v &&& 0x0F == 0x0A

/-- The image offset a bank shows at address `a` of the window 0x4000–0x7FFF (R229, R261), on unbounded
integers. -/
def romOffset (bank : Nat) (a : Addr) : Nat := bank * Config.romBankSize + (a.toNat - 0x4000)

/-- The RAM-array offset a bank shows at offset `o` of the RAM window (R237, R280, R292). -/
def ramBankOffset (bank : Nat) (o : RamOffset) : Nat := bank * Config.ramBankSize + o.toNat

/-- `romBank0(a)` (R228, R261): the byte, or the out-of-range index of R322 when the image is too short. -/
def romBank0 (p : IndexPolicy) (rom : Image) (a : Addr) : Except Fault Byte :=
  if a.toNat < rom.len then .ok (rom.byte a.toNat) else internalIndex p a

/-- `romBanked(bank, a)` (R229, R261): bounds-checked, 0xFF beyond the image. -/
def romBanked (rom : Image) (bank : Nat) (a : Addr) : Byte :=
  if romOffset bank a < rom.len then rom.byte (romOffset bank a) else 0xFF

end Sys2Proof.Machine
end

