-- ==== Sys2Proof/Machine/Linear.lean ====
section
/-! DEFINITION. The LinearBanking controller, type codes 0x01–0x03 (42_mbc_nobanking_linear.md R226 to R241),
its operations and the meanings of its ten CART rows. -/

namespace Sys2Proof.Machine

/-- The effective ROM bank (R227): the substitution acts on the low 5 bits (90_conflicts.md C3). -/
def LinearBanking.effRomBank (c : LinearBanking) : BitVec 7 :=
  let lo := c.romBankSelect &&& 0x1F
  (c.romBankSelect &&& 0x60) ||| (if lo = 0 then 1 else lo)

/-- R229: the switchable window. -/
def LinearBanking.readBanked (c : LinearBanking) (a : Addr) : Byte := romBanked c.rom c.effRomBank.toNat a

/-- R228, R229, R230: a controller read, by address. -/
def LinearBanking.read (p : IndexPolicy) (c : LinearBanking) (a : Addr) : Except Fault Byte :=
  if a.toNat ≤ 0x3FFF then romBank0 p c.rom a
  else if a.toNat ≤ 0x7FFF then .ok (c.readBanked a)
  else .ok 0xFF

/-- R231: the RAM-enable latch. -/
def LinearBanking.setEnable (c : LinearBanking) (v : Byte) : LinearBanking := { c with ramEnabled := enableTest v }

/-- R232: the low 5 ROM-bank bits, 0 forced to 1. -/
def LinearBanking.setBankLow (c : LinearBanking) (v : Byte) : LinearBanking :=
  let lo : BitVec 7 := (v &&& 0x1F).setWidth 7
  { c with romBankSelect := (c.romBankSelect &&& 0x60) ||| (if lo = 0 then 1 else lo) }

/-- R233: the 2-bit secondary register, whose target depends on the mode. -/
def LinearBanking.setUpper (c : LinearBanking) (v : Byte) : LinearBanking :=
  if c.bankingMode = 0 then
    { c with romBankSelect := (c.romBankSelect &&& 0x1F) ||| ((v &&& 0x03).setWidth 7 <<< 5) }
  else { c with ramBankSelect := (v &&& 0x03).setWidth 2 }

/-- R234: the banking mode; entering mode 1 clears the high ROM-bank bits. -/
def LinearBanking.setMode (c : LinearBanking) (v : Byte) : LinearBanking :=
  let m : BitVec 1 := (v &&& 0x01).setWidth 1
  { c with bankingMode := m, romBankSelect := if m = 1 then c.romBankSelect &&& 0x1F else c.romBankSelect }

/-- R231 to R235: a controller write, by address. -/
def LinearBanking.write (c : LinearBanking) (a : Addr) (v : Byte) : LinearBanking :=
  if a.toNat ≤ 0x1FFF then c.setEnable v
  else if a.toNat ≤ 0x3FFF then c.setBankLow v
  else if a.toNat ≤ 0x5FFF then c.setUpper v
  else if a.toNat ≤ 0x7FFF then c.setMode v
  else c

/-- The effective RAM bank (R236). -/
def LinearBanking.effRamBank (c : LinearBanking) : BitVec 2 := if c.bankingMode = 1 then c.ramBankSelect else 0

/-- The RAM cell offset `o` reaches (R237, R238): none while RAM is disabled, or beyond the array. -/
def LinearBanking.ramCell (c : LinearBanking) (o : RamOffset) : Option Nat :=
  if c.ramEnabled then
    (if ramBankOffset c.effRamBank.toNat o < Config.linearRamSize then some (ramBankOffset c.effRamBank.toNat o) else none)
  else none

/-- R237. -/
def LinearBanking.readRam (c : LinearBanking) (o : RamOffset) : Byte :=
  match c.ramCell o with
  | some i => Memory.get zeroCell c.ram i
  | none => 0xFF

/-- R238. -/
def LinearBanking.writeRam (c : LinearBanking) (o : RamOffset) (v : Byte) : LinearBanking :=
  match c.ramCell o with
  | some i => { c with ram := Memory.set zeroCell c.ram i v }
  | none => c

/-- LB.READ for 0x0000–0x3FFF (R228). -/
def execLbRead0000 (a : Addr) (s : State) : Out :=
  s.onLinear fun c => s.answerByte (noDraw s.draws (romBank0 s.params.indexViolation c.rom a))

/-- LB.READ for 0x4000–0x7FFF (R229). -/
def execLbRead4000 (a : Addr) (s : State) : Out := s.onLinear fun c => s.giveByte (c.readBanked a)

/-- LB.READ for 0x8000–0xFFFF (R230). -/
def execLbRead8000 (_ : Addr) (s : State) : Out := s.onLinear fun _ => s.giveByte 0xFF

/-- LB.WRITE for 0x0000–0x1FFF (R231). -/
def execLbWrite0000 (_ : Addr) (v : Byte) (s : State) : Out := s.onLinear fun c => s.finishCtl (.linear (c.setEnable v))

/-- LB.WRITE for 0x2000–0x3FFF (R232). -/
def execLbWrite2000 (_ : Addr) (v : Byte) (s : State) : Out := s.onLinear fun c => s.finishCtl (.linear (c.setBankLow v))

/-- LB.WRITE for 0x4000–0x5FFF (R233). -/
def execLbWrite4000 (_ : Addr) (v : Byte) (s : State) : Out := s.onLinear fun c => s.finishCtl (.linear (c.setUpper v))

/-- LB.WRITE for 0x6000–0x7FFF (R234). -/
def execLbWrite6000 (_ : Addr) (v : Byte) (s : State) : Out := s.onLinear fun c => s.finishCtl (.linear (c.setMode v))

/-- LB.WRITE for 0x8000–0xFFFF (R235, D14): no state changes. -/
def execLbWrite8000 (_ : Addr) (_ : Byte) (s : State) : Out := s.onLinear fun c => s.finishCtl (.linear c)

/-- LB.READRAM (R237). -/
def execLbReadRam (o : RamOffset) (s : State) : Out := s.onLinear fun c => s.giveByte (c.readRam o)

/-- LB.WRITERAM (R238). -/
def execLbWriteRam (o : RamOffset) (v : Byte) (s : State) : Out := s.onLinear fun c => s.finishCtl (.linear (c.writeRam o v))

end Sys2Proof.Machine
end

