-- ==== Sys2Proof/Machine/Mbc2.lean ====
section
/-! DEFINITION. The MBC2 controller, type codes 0x05–0x06 (43_mbc_extended.md R262 to R270), its operations and
the meanings of its eight CART rows. The spec gives all of it from general knowledge (log 19). -/

namespace Sys2Proof.Machine

/-- R264: the switchable window. -/
def Mbc2.readBanked (c : Mbc2) (a : Addr) : Byte := romBanked c.rom c.romBank.toNat a

/-- R263, R264, R265: a controller read, by address. -/
def Mbc2.read (p : IndexPolicy) (c : Mbc2) (a : Addr) : Except Fault Byte :=
  if a.toNat ≤ 0x3FFF then romBank0 p c.rom a
  else if a.toNat ≤ 0x7FFF then .ok (c.readBanked a)
  else .ok 0xFF

/-- R266: the RAM-enable latch. -/
def Mbc2.setEnable (c : Mbc2) (v : Byte) : Mbc2 := { c with ramEnabled := enableTest v }

/-- R267: the ROM bank, 0 replaced by 1. -/
def Mbc2.setBank (c : Mbc2) (v : Byte) : Mbc2 :=
  let b : BitVec 4 := (v &&& 0x0F).setWidth 4
  { c with romBank := if b = 0 then 1 else b }

/-- R266, R267, R268: a controller write; address bit 8 tells the latch from the bank register. -/
def Mbc2.write (c : Mbc2) (a : Addr) (v : Byte) : Mbc2 :=
  if a.toNat ≤ 0x3FFF then (if a.getLsbD 8 then c.setBank v else c.setEnable v) else c

/-- The cell offset `o` reaches: `o & 0x1FF`, so the 0x200 cells repeat (R269). -/
def Mbc2.cell (o : RamOffset) : Nat := (o &&& 0x1FF).toNat

/-- R269: the upper nibble is a free value, drawn afresh at each read that reaches a cell (log 7). -/
def Mbc2.readRam (c : Mbc2) (o : RamOffset) (draws : Nat) : Byte × Nat :=
  if c.ramEnabled then (Config.mbc2RamHigh draws ++ Memory.get zeroCell c.ram (Mbc2.cell o), draws + 1)
  else (0xFF, draws)

/-- R270: the low nibble is stored. -/
def Mbc2.writeRam (c : Mbc2) (o : RamOffset) (v : Byte) : Mbc2 :=
  if c.ramEnabled then { c with ram := Memory.set zeroCell c.ram (Mbc2.cell o) ((v &&& 0x0F).setWidth 4) } else c

/-- M2.READ for 0x0000–0x3FFF (R263). -/
def execM2Read0000 (a : Addr) (s : State) : Out :=
  s.onMbc2 fun c => s.answerByte (noDraw s.draws (romBank0 s.params.indexViolation c.rom a))

/-- M2.READ for 0x4000–0x7FFF (R264). -/
def execM2Read4000 (a : Addr) (s : State) : Out := s.onMbc2 fun c => s.giveByte (c.readBanked a)

/-- M2.READ for 0x8000–0xFFFF (R265). -/
def execM2Read8000 (_ : Addr) (s : State) : Out := s.onMbc2 fun _ => s.giveByte 0xFF

/-- M2.WRITE for 0x0000–0x3FFF with `a[8] = 0` (R266). -/
def execM2WriteA8Clear (_ : Addr) (v : Byte) (s : State) : Out := s.onMbc2 fun c => s.finishCtl (.mbc2 (c.setEnable v))

/-- M2.WRITE for 0x0000–0x3FFF with `a[8] = 1` (R267). -/
def execM2WriteA8Set (_ : Addr) (v : Byte) (s : State) : Out := s.onMbc2 fun c => s.finishCtl (.mbc2 (c.setBank v))

/-- M2.WRITE for 0x4000–0xFFFF (R268): no state changes. -/
def execM2Write4000 (_ : Addr) (_ : Byte) (s : State) : Out := s.onMbc2 fun c => s.finishCtl (.mbc2 c)

/-- M2.READRAM (R269). -/
def execM2ReadRam (o : RamOffset) (s : State) : Out := s.onMbc2 fun c => s.answerByte (.ok (c.readRam o s.draws))

/-- M2.WRITERAM (R270). -/
def execM2WriteRam (o : RamOffset) (v : Byte) (s : State) : Out := s.onMbc2 fun c => s.finishCtl (.mbc2 (c.writeRam o v))

end Sys2Proof.Machine
end

