-- ==== Sys2Proof/Machine/Mbc3.lean ====
section
/-! DEFINITION. The MBC3 controller, type codes 0x0F–0x13 (43_mbc_extended.md R271 to R282), its operations and
the meanings of its ten CART rows. The spec gives all of it from general knowledge (log 19); the real-time
clock is out of its scope (00_scope.md R5). -/

namespace Sys2Proof.Machine

/-- R273: the switchable window. -/
def Mbc3.readBanked (c : Mbc3) (a : Addr) : Byte := romBanked c.rom c.romBank.toNat a

/-- R272, R273, R274: a controller read, by address. -/
def Mbc3.read (p : IndexPolicy) (c : Mbc3) (a : Addr) : Except Fault Byte :=
  if a.toNat ≤ 0x3FFF then romBank0 p c.rom a
  else if a.toNat ≤ 0x7FFF then .ok (c.readBanked a)
  else .ok 0xFF

/-- R275: the latch that gates RAM and RTC access. -/
def Mbc3.setEnable (c : Mbc3) (v : Byte) : Mbc3 := { c with ramEnabled := enableTest v }

/-- R276: the 7-bit ROM bank, 0 replaced by 1. -/
def Mbc3.setBank (c : Mbc3) (v : Byte) : Mbc3 :=
  let b : BitVec 7 := (v &&& 0x7F).setWidth 7
  { c with romBank := if b = 0 then 1 else b }

/-- R277: all 8 bits. -/
def Mbc3.setSelect (c : Mbc3) (v : Byte) : Mbc3 := { c with select := v }

/-- R275 to R279: a controller write, by address. 0x6000–0x7FFF is the RTC latch, which changes no modelled
state (R278). -/
def Mbc3.write (c : Mbc3) (a : Addr) (v : Byte) : Mbc3 :=
  if a.toNat ≤ 0x1FFF then c.setEnable v
  else if a.toNat ≤ 0x3FFF then c.setBank v
  else if a.toNat ≤ 0x5FFF then c.setSelect v
  else c

/-- Whether `select` names an RTC register (R280). -/
def Mbc3.selectsRtc (c : Mbc3) : Bool := decide (0x08 ≤ c.select.toNat ∧ c.select.toNat ≤ 0x0C)

/-- The RAM cell offset `o` reaches (R280 to R282): one for the selects 0x00–0x03 while the latch is set. -/
def Mbc3.ramCell (c : Mbc3) (o : RamOffset) : Option Nat :=
  if c.ramEnabled then (if c.select.toNat ≤ 0x03 then some (ramBankOffset c.select.toNat o) else none) else none

/-- R281: a RAM byte, a fresh free value for an RTC register (log 8), or 0xFF. -/
def Mbc3.readRam (c : Mbc3) (o : RamOffset) (draws : Nat) : Byte × Nat :=
  match c.ramCell o with
  | some i => (Memory.get zeroCell c.ram i, draws)
  | none => if c.ramEnabled && c.selectsRtc then (Config.rtcRead draws, draws + 1) else (0xFF, draws)

/-- R282: stores to a RAM bank, and changes nothing for an RTC register or no target. -/
def Mbc3.writeRam (c : Mbc3) (o : RamOffset) (v : Byte) : Mbc3 :=
  match c.ramCell o with
  | some i => { c with ram := Memory.set zeroCell c.ram i v }
  | none => c

/-- M3.READ for 0x0000–0x3FFF (R272). -/
def execM3Read0000 (a : Addr) (s : State) : Out :=
  s.onMbc3 fun c => s.answerByte (noDraw s.draws (romBank0 s.params.indexViolation c.rom a))

/-- M3.READ for 0x4000–0x7FFF (R273). -/
def execM3Read4000 (a : Addr) (s : State) : Out := s.onMbc3 fun c => s.giveByte (c.readBanked a)

/-- M3.READ for 0x8000–0xFFFF (R274). -/
def execM3Read8000 (_ : Addr) (s : State) : Out := s.onMbc3 fun _ => s.giveByte 0xFF

/-- M3.WRITE for 0x0000–0x1FFF (R275). -/
def execM3Write0000 (_ : Addr) (v : Byte) (s : State) : Out := s.onMbc3 fun c => s.finishCtl (.mbc3 (c.setEnable v))

/-- M3.WRITE for 0x2000–0x3FFF (R276). -/
def execM3Write2000 (_ : Addr) (v : Byte) (s : State) : Out := s.onMbc3 fun c => s.finishCtl (.mbc3 (c.setBank v))

/-- M3.WRITE for 0x4000–0x5FFF (R277). -/
def execM3Write4000 (_ : Addr) (v : Byte) (s : State) : Out := s.onMbc3 fun c => s.finishCtl (.mbc3 (c.setSelect v))

/-- M3.WRITE for 0x6000–0x7FFF, the RTC latch (R278): no modelled state changes. -/
def execM3Write6000 (_ : Addr) (_ : Byte) (s : State) : Out := s.onMbc3 fun c => s.finishCtl (.mbc3 c)

/-- M3.WRITE for 0x8000–0xFFFF (R279): no state changes. -/
def execM3Write8000 (_ : Addr) (_ : Byte) (s : State) : Out := s.onMbc3 fun c => s.finishCtl (.mbc3 c)

/-- M3.READRAM (R281). -/
def execM3ReadRam (o : RamOffset) (s : State) : Out := s.onMbc3 fun c => s.answerByte (.ok (c.readRam o s.draws))

/-- M3.WRITERAM (R282). -/
def execM3WriteRam (o : RamOffset) (v : Byte) (s : State) : Out := s.onMbc3 fun c => s.finishCtl (.mbc3 (c.writeRam o v))

end Sys2Proof.Machine
end

