-- ==== Sys2Proof/Machine/Mbc5.lean ====
section
/-! DEFINITION. The MBC5 controller, type codes 0x19–0x1E (43_mbc_extended.md R283 to R293), its operations and
the meanings of its ten CART rows. The spec gives all of it from general knowledge (log 19). -/

namespace Sys2Proof.Machine

/-- The 9-bit ROM bank (R285); 0 is not replaced. -/
def Mbc5.bank (c : Mbc5) : Nat := (c.romBankHi ++ c.romBankLo).toNat

/-- R285: the switchable window. -/
def Mbc5.readBanked (c : Mbc5) (a : Addr) : Byte := romBanked c.rom c.bank a

/-- R284, R285, R286: a controller read, by address. -/
def Mbc5.read (p : IndexPolicy) (c : Mbc5) (a : Addr) : Except Fault Byte :=
  if a.toNat ≤ 0x3FFF then romBank0 p c.rom a
  else if a.toNat ≤ 0x7FFF then .ok (c.readBanked a)
  else .ok 0xFF

/-- R287. -/
def Mbc5.setEnable (c : Mbc5) (v : Byte) : Mbc5 := { c with ramEnabled := enableTest v }

/-- R288: all 8 bits, 0x00 stored as 0. -/
def Mbc5.setBankLo (c : Mbc5) (v : Byte) : Mbc5 := { c with romBankLo := v }

/-- R289. -/
def Mbc5.setBankHi (c : Mbc5) (v : Byte) : Mbc5 := { c with romBankHi := (v &&& 0x01).setWidth 1 }

/-- R290. -/
def Mbc5.setRamBank (c : Mbc5) (v : Byte) : Mbc5 := { c with ramBank := (v &&& 0x0F).setWidth 4 }

/-- R287 to R291: a controller write, by address. -/
def Mbc5.write (c : Mbc5) (a : Addr) (v : Byte) : Mbc5 :=
  if a.toNat ≤ 0x1FFF then c.setEnable v
  else if a.toNat ≤ 0x2FFF then c.setBankLo v
  else if a.toNat ≤ 0x3FFF then c.setBankHi v
  else if a.toNat ≤ 0x5FFF then c.setRamBank v
  else c

/-- The RAM cell offset `o` reaches (R292, R293): none while RAM is disabled. -/
def Mbc5.ramCell (c : Mbc5) (o : RamOffset) : Option Nat :=
  if c.ramEnabled then some (ramBankOffset c.ramBank.toNat o) else none

/-- R292. -/
def Mbc5.readRam (c : Mbc5) (o : RamOffset) : Byte :=
  match c.ramCell o with
  | some i => Memory.get zeroCell c.ram i
  | none => 0xFF

/-- R293. -/
def Mbc5.writeRam (c : Mbc5) (o : RamOffset) (v : Byte) : Mbc5 :=
  match c.ramCell o with
  | some i => { c with ram := Memory.set zeroCell c.ram i v }
  | none => c

/-- M5.READ for 0x0000–0x3FFF (R284). -/
def execM5Read0000 (a : Addr) (s : State) : Out :=
  s.onMbc5 fun c => s.answerByte (noDraw s.draws (romBank0 s.params.indexViolation c.rom a))

/-- M5.READ for 0x4000–0x7FFF (R285). -/
def execM5Read4000 (a : Addr) (s : State) : Out := s.onMbc5 fun c => s.giveByte (c.readBanked a)

/-- M5.READ for 0x8000–0xFFFF (R286). -/
def execM5Read8000 (_ : Addr) (s : State) : Out := s.onMbc5 fun _ => s.giveByte 0xFF

/-- M5.WRITE for 0x0000–0x1FFF (R287). -/
def execM5Write0000 (_ : Addr) (v : Byte) (s : State) : Out := s.onMbc5 fun c => s.finishCtl (.mbc5 (c.setEnable v))

/-- M5.WRITE for 0x2000–0x2FFF (R288). -/
def execM5Write2000 (_ : Addr) (v : Byte) (s : State) : Out := s.onMbc5 fun c => s.finishCtl (.mbc5 (c.setBankLo v))

/-- M5.WRITE for 0x3000–0x3FFF (R289). -/
def execM5Write3000 (_ : Addr) (v : Byte) (s : State) : Out := s.onMbc5 fun c => s.finishCtl (.mbc5 (c.setBankHi v))

/-- M5.WRITE for 0x4000–0x5FFF (R290). -/
def execM5Write4000 (_ : Addr) (v : Byte) (s : State) : Out := s.onMbc5 fun c => s.finishCtl (.mbc5 (c.setRamBank v))

/-- M5.WRITE for 0x6000–0xFFFF (R291): no state changes. -/
def execM5Write6000 (_ : Addr) (_ : Byte) (s : State) : Out := s.onMbc5 fun c => s.finishCtl (.mbc5 c)

/-- M5.READRAM (R292). -/
def execM5ReadRam (o : RamOffset) (s : State) : Out := s.onMbc5 fun c => s.giveByte (c.readRam o)

/-- M5.WRITERAM (R293). -/
def execM5WriteRam (o : RamOffset) (v : Byte) (s : State) : Out := s.onMbc5 fun c => s.finishCtl (.mbc5 (c.writeRam o v))

end Sys2Proof.Machine
end

