-- ==== Sys2Proof/Machine/NoBanking.lean ====
section
/-! DEFINITION. The NoBanking controller (42_mbc_nobanking_linear.md R221 to R225), its operations and the
meanings of its five CART rows. The pre-load controller of 41_memory_map.md R195 runs the same operations over
`staging` and `xram`. -/

namespace Sys2Proof.Machine

/-- R222: `rom[a]` below 0x8000. -/
def NoBanking.romByte (c : NoBanking) (a : Addr) : Byte := Memory.get zeroCell c.rom a.toNat

/-- R222, for any address. -/
def NoBanking.read (c : NoBanking) (a : Addr) : Byte := if a.toNat < 0x8000 then c.romByte a else 0xFF

/-- R224. -/
def NoBanking.readRam (c : NoBanking) (o : RamOffset) : Byte := Memory.get zeroCell c.ram o.toNat

/-- R225. -/
def NoBanking.writeRam (c : NoBanking) (o : RamOffset) (v : Byte) : NoBanking :=
  { c with ram := Memory.set zeroCell c.ram o.toNat v }

/-- NB.READ for 0x0000–0x7FFF (R222). -/
def execNbRead0000 (a : Addr) (s : State) : Out := s.onNoBanking fun c => s.giveByte (c.romByte a)

/-- NB.READ for 0x8000–0xFFFF (R222). -/
def execNbRead8000 (_ : Addr) (s : State) : Out := s.onNoBanking fun _ => s.giveByte 0xFF

/-- NB.WRITE (R223): no state changes. -/
def execNbWrite0000 (_ : Addr) (_ : Byte) (s : State) : Out := s.onNoBanking fun c => s.finishCtl (.noBanking c)

/-- NB.READRAM (R224). -/
def execNbReadRam (o : RamOffset) (s : State) : Out := s.onNoBanking fun c => s.giveByte (c.readRam o)

/-- NB.WRITERAM (R225). -/
def execNbWriteRam (o : RamOffset) (v : Byte) (s : State) : Out :=
  s.onNoBanking fun c => s.finishCtl (.noBanking (c.writeRam o v))

end Sys2Proof.Machine
end

