-- ==== Sys2Proof/Machine/Controller.lean ====
section
/-! DEFINITION. The controller capability (42_mbc_nobanking_linear.md R220): the four operations every variant
implements, and the construction of a controller (41_memory_map.md R196, R197). -/

namespace Sys2Proof.Machine

/-- `cart.read(a)`. -/
def Controller.read (p : IndexPolicy) (c : Controller) (a : Addr) : Except Fault Byte :=
  match c with
  | .noBanking c => .ok (c.read a)
  | .linear c => c.read p a
  | .mbc2 c => c.read p a
  | .mbc3 c => c.read p a
  | .mbc5 c => c.read p a

/-- `cart.write(a, v)`. -/
def Controller.write (c : Controller) (a : Addr) (v : Byte) : Controller :=
  match c with
  | .noBanking c => .noBanking c
  | .linear c => .linear (c.write a v)
  | .mbc2 c => .mbc2 (c.write a v)
  | .mbc3 c => .mbc3 (c.write a v)
  | .mbc5 c => .mbc5 (c.write a v)

/-- `cart.readRAM(o)`, with the number of free values drawn before and after it. -/
def Controller.readRam (c : Controller) (o : RamOffset) (draws : Nat) : Byte × Nat :=
  match c with
  | .noBanking c => (c.readRam o, draws)
  | .linear c => (c.readRam o, draws)
  | .mbc2 c => c.readRam o draws
  | .mbc3 c => c.readRam o draws
  | .mbc5 c => (c.readRam o, draws)

/-- `cart.writeRAM(o, v)`. -/
def Controller.writeRam (c : Controller) (o : RamOffset) (v : Byte) : Controller :=
  match c with
  | .noBanking c => .noBanking (c.writeRam o v)
  | .linear c => .linear (c.writeRam o v)
  | .mbc2 c => .mbc2 (c.writeRam o v)
  | .mbc3 c => .mbc3 (c.writeRam o v)
  | .mbc5 c => .mbc5 (c.writeRam o v)

/-- `selectVariant(code)` (R197): the variant, and whether the code is unrecognised. -/
def selectVariant (code : Byte) : Variant × Bool :=
  let n := code.toNat
  if n = 0x00 then (.noBanking, false)
  else if 0x01 ≤ n ∧ n ≤ 0x03 then (.linear, false)
  else if 0x05 ≤ n ∧ n ≤ 0x06 then (.mbc2, false)
  else if 0x0F ≤ n ∧ n ≤ 0x13 then (.mbc3, false)
  else if 0x19 ≤ n ∧ n ≤ 0x1E then (.mbc5, false)
  else (.noBanking, true)

/-- Whether a variant is one that `EXTENDED_MBC` governs (R196). -/
def isExtended : Variant → Bool
  | .noBanking => false
  | .linear => false
  | .mbc2 => true
  | .mbc3 => true
  | .mbc5 => true

/-- `construct(variant, image)` (R196; the values are those of 10_state.md R34 to R38): a fresh controller over
the image, or, for NoBanking, over a copy of the staging buffer. -/
def construct (init : RamInit) (var : Variant) (staging : Memory) (image : Image) : Controller :=
  match var with
  | .noBanking => .noBanking { rom := staging, ram := Memory.fresh id Config.noBankingRamSize init.noBanking }
  | .linear =>
    .linear { rom := image, ram := Memory.fresh id Config.linearRamSize init.linear, romBankSelect := 0x01,
              ramBankSelect := 0, ramEnabled := false, bankingMode := 0 }
  | .mbc2 =>
    .mbc2 { rom := image, ram := Memory.fresh (BitVec.setWidth 4) Config.mbc2Cells init.mbc2, romBank := 1, ramEnabled := false }
  | .mbc3 =>
    .mbc3 { rom := image, ram := Memory.fresh id Config.mbc3RamSize init.mbc3, romBank := 1, select := 0, ramEnabled := false }
  | .mbc5 =>
    .mbc5 { rom := image, ram := Memory.fresh id Config.mbc5RamSize init.mbc5, romBankLo := 1, romBankHi := 0, ramBank := 0,
            ramEnabled := false }

end Sys2Proof.Machine
end

