-- ==== Sys2Proof/Machine/Bus.lean ====
section
/-! DEFINITION. The memory map's byte and word accesses (41_memory_map.md R170 to R194): one operation for each
region and direction, the dispatch over the owner of an address, the word accesses made of two byte accesses,
and the meanings of the BUS rows. -/

namespace Sys2Proof.Machine

/-! ## Byte reads (R171 to R181) -/

/-- R172: `ctl().read(addr)`, with the number of free values drawn so far. -/
def State.readRom (s : State) (a : Addr) : Except Fault (Byte × Nat) :=
  noDraw s.draws (s.mm.ctl.read s.params.indexViolation a)

/-- R174: `ctl().readRAM(addr - 0xA000)`, with the number of free values drawn before and after it. -/
def State.readCram (s : State) (a : Addr) : Byte × Nat := s.mm.ctl.readRam (ramOffset a) s.draws

/-- R173. -/
def MemoryMap.readVram (mm : MemoryMap) (a : Addr) : Byte := mm.load .vram (vramIndex a)

/-- R175. -/
def MemoryMap.readWram (mm : MemoryMap) (a : Addr) : Byte := mm.load .wram (wramIndex a)

/-- R176. -/
def MemoryMap.readEcho (mm : MemoryMap) (a : Addr) : Byte := mm.load .wram (echoIndex a)

/-- R177. -/
def MemoryMap.readOam (mm : MemoryMap) (a : Addr) : Byte := mm.load .oam (oamIndex a)

/-- R179. -/
def MemoryMap.readIo (mm : MemoryMap) (a : Addr) : Byte := mm.load .io (ioIndex a)

/-- R180. -/
def MemoryMap.readHram (mm : MemoryMap) (a : Addr) : Byte := mm.load .hram (hramIndex a)

/-- R178: an unmapped address reads 0xFF. -/
def unmappedByte : Byte := 0xFF

/-- `read(addr)` (R171): the read of the region that owns the address, and the number of free values drawn
after it. -/
def State.readByte (s : State) (a : Addr) : Except Fault (Byte × Nat) :=
  match owner a with
  | .cartRom => s.readRom a
  | .vram => .ok (s.mm.readVram a, s.draws)
  | .cartRam => .ok (s.readCram a)
  | .wram => .ok (s.mm.readWram a, s.draws)
  | .echo => .ok (s.mm.readEcho a, s.draws)
  | .oam => .ok (s.mm.readOam a, s.draws)
  | .unmapped => .ok (unmappedByte, s.draws)
  | .io => .ok (s.mm.readIo a, s.draws)
  | .hram => .ok (s.mm.readHram a, s.draws)
  | .ie => .ok (s.mm.ie, s.draws)

/-- `readWord(addr)` (R193): the low byte first, the high byte at the next address modulo 0x10000; a raise of
the first read ends the request (60_exceptions.md R327). -/
def State.readWord (s : State) (a : Addr) : Except Fault (Word × Nat) :=
  match s.readByte a with
  | .error f => .error f
  | .ok (lo, n) =>
    match (s.withDraws n).readByte (nextAddr a) with
    | .error f => .error f
    | .ok (hi, n') => .ok (joinBytes hi lo, n')

/-! ## Byte writes (R182 to R192) -/

/-- R183: `ctl().write(addr, v)`. -/
def MemoryMap.writeRom (mm : MemoryMap) (a : Addr) (v : Byte) : MemoryMap := mm.withCtl (mm.ctl.write a v)

/-- R185: `ctl().writeRAM(addr - 0xA000, v)`. -/
def MemoryMap.writeCram (mm : MemoryMap) (a : Addr) (v : Byte) : MemoryMap := mm.withCtl (mm.ctl.writeRam (ramOffset a) v)

/-- R184. -/
def MemoryMap.writeVram (mm : MemoryMap) (a : Addr) (v : Byte) : MemoryMap := mm.store .vram (vramIndex a) v

/-- R186. -/
def MemoryMap.writeWram (mm : MemoryMap) (a : Addr) (v : Byte) : MemoryMap := mm.store .wram (wramIndex a) v

/-- R187. -/
def MemoryMap.writeEcho (mm : MemoryMap) (a : Addr) (v : Byte) : MemoryMap := mm.store .wram (echoIndex a) v

/-- R188. -/
def MemoryMap.writeOam (mm : MemoryMap) (a : Addr) (v : Byte) : MemoryMap := mm.store .oam (oamIndex a) v

/-- R190. -/
def MemoryMap.writeIo (mm : MemoryMap) (a : Addr) (v : Byte) : MemoryMap := mm.store .io (ioIndex a) v

/-- R191. -/
def MemoryMap.writeHram (mm : MemoryMap) (a : Addr) (v : Byte) : MemoryMap := mm.store .hram (hramIndex a) v

/-- R192: all 8 bits. -/
def MemoryMap.writeIe (mm : MemoryMap) (v : Byte) : MemoryMap := { mm with ie := v }

/-- `write(addr, v)` (R182): the write of the region that owns the address; nothing for an unmapped one
(R189). -/
def MemoryMap.writeByte (mm : MemoryMap) (a : Addr) (v : Byte) : MemoryMap :=
  match owner a with
  | .cartRom => mm.writeRom a v
  | .vram => mm.writeVram a v
  | .cartRam => mm.writeCram a v
  | .wram => mm.writeWram a v
  | .echo => mm.writeEcho a v
  | .oam => mm.writeOam a v
  | .unmapped => mm
  | .io => mm.writeIo a v
  | .hram => mm.writeHram a v
  | .ie => mm.writeIe v

/-- `writeWord(addr, v)` (R194): the low byte first, then the high byte at the next address modulo 0x10000. -/
def MemoryMap.writeWord (mm : MemoryMap) (a : Addr) (v : Word) : MemoryMap :=
  (mm.writeByte a (loByte v)).writeByte (nextAddr a) (hiByte v)

/-! ## The meanings -/

/-- R.ROM (R172). -/
def execRRom (a : Addr) (s : State) : Out := s.answerByte (s.readRom a)

/-- R.CRAM (R174). -/
def execRCram (a : Addr) (s : State) : Out := s.answerByte (.ok (s.readCram a))

/-- R.VRAM (R173). -/
def execRVram (a : Addr) (s : State) : Out := s.giveByte (s.mm.readVram a)

/-- R.WRAM (R175). -/
def execRWram (a : Addr) (s : State) : Out := s.giveByte (s.mm.readWram a)

/-- R.ECHO (R176). -/
def execREcho (a : Addr) (s : State) : Out := s.giveByte (s.mm.readEcho a)

/-- R.OAM (R177). -/
def execROam (a : Addr) (s : State) : Out := s.giveByte (s.mm.readOam a)

/-- R.IO (R179). -/
def execRIo (a : Addr) (s : State) : Out := s.giveByte (s.mm.readIo a)

/-- R.HRAM (R180). -/
def execRHram (a : Addr) (s : State) : Out := s.giveByte (s.mm.readHram a)

/-- R.UNMAPPED (R178). -/
def execRUnmapped (_ : Addr) (s : State) : Out := s.giveByte unmappedByte

/-- R.IE (R181). -/
def execRIe (_ : Addr) (s : State) : Out := s.giveByte s.mm.ie

/-- W.ROM (R183). -/
def execWRom (a : Addr) (v : Byte) (s : State) : Out := s.finishMm (s.mm.writeRom a v)

/-- W.CRAM (R185). -/
def execWCram (a : Addr) (v : Byte) (s : State) : Out := s.finishMm (s.mm.writeCram a v)

/-- W.VRAM (R184). -/
def execWVram (a : Addr) (v : Byte) (s : State) : Out := s.finishMm (s.mm.writeVram a v)

/-- W.WRAM (R186). -/
def execWWram (a : Addr) (v : Byte) (s : State) : Out := s.finishMm (s.mm.writeWram a v)

/-- W.ECHO (R187). -/
def execWEcho (a : Addr) (v : Byte) (s : State) : Out := s.finishMm (s.mm.writeEcho a v)

/-- W.OAM (R188). -/
def execWOam (a : Addr) (v : Byte) (s : State) : Out := s.finishMm (s.mm.writeOam a v)

/-- W.IO (R190). -/
def execWIo (a : Addr) (v : Byte) (s : State) : Out := s.finishMm (s.mm.writeIo a v)

/-- W.HRAM (R191). -/
def execWHram (a : Addr) (v : Byte) (s : State) : Out := s.finishMm (s.mm.writeHram a v)

/-- W.UNMAPPED (R189): the state is unchanged. -/
def execWUnmapped (_ : Addr) (_ : Byte) (s : State) : Out := s.finishMm s.mm

/-- W.IE (R192). -/
def execWIe (_ : Addr) (v : Byte) (s : State) : Out := s.finishMm (s.mm.writeIe v)

/-- RDW (R193). -/
def execRdw (a : Addr) (s : State) : Out := s.answerWord (s.readWord a)

/-- WRW (R194). -/
def execWrw (a : Addr) (v : Word) (s : State) : Out := s.finishMm (s.mm.writeWord a v)

end Sys2Proof.Machine
end

