-- ==== Sys2Proof/Machine/Control.lean ====
section
/-! DEFINITION. The control requests `reset()` and `loadROM(image, code)` (41_memory_map.md R196 to R199). -/

namespace Sys2Proof.Machine

/-- `reset()` (R198): the six buffers 0x00 but for the I/O power-on values, `ie` 0x00; `staging` and `cart`
unchanged. An empty buffer reads as the pseudocode leaves it (`Buffer.blank`). -/
def MemoryMap.reset (mm : MemoryMap) : MemoryMap :=
  { mm with vram := [], xram := [], wram := [], oam := [], io := [], hram := [], ie := 0x00 }

/-- The staging buffer after the zero-fill and the copy of R196: the first `min(n, 0x8000)` image bytes. -/
def stagedImage (image : List Byte) : Memory := Memory.ofBytesFrom 0 (image.take Config.stagingSize)

/-- The memory map after `loadROM` has selected `var` (R196): `staging` and `cart` replaced, nothing else. -/
def MemoryMap.loadRom (mm : MemoryMap) (init : RamInit) (var : Variant) (image : List Byte) : MemoryMap :=
  { mm with
    staging := stagedImage image
    cart := some (construct init var (stagedImage image) (Image.ofBytes image)) }

/-- RESET (R198). -/
def execReset (s : State) : Out := s.finishMm s.mm.reset

/-- LOADROM (R196, R197): refused as `UnmodelledVariant` for an extended variant while `EXTENDED_MBC = refuse`
(60_exceptions.md R321 EV3); otherwise it completes, with `warn(code)` for an unrecognised code (EV1, R323). -/
def execLoadrom (image : List Byte) (code : Byte) (s : State) : Out :=
  if isExtended (selectVariant code).1 && s.params.extendedMbc == .refuse then .refused (.unmodelledVariant code)
  else .next ((s.withMm (s.mm.loadRom s.params.ramInit (selectVariant code).1 image)).respond
    (.loaded (if (selectVariant code).2 then some code else none)))

end Sys2Proof.Machine
end

