-- ==== Sys2Proof/Machine/Flags.lean ====
section
/-! DEFINITION. The packed flag byte and the 16-bit views of the register file (40_register_file.md section 1,
10_state.md R25, R39). -/

namespace Sys2Proof.Machine

/-- `packFlags()` (R130): z, n, h, c at bits 7 to 4, bits 3 to 0 always 0. -/
def RegFile.packFlags (r : RegFile) : Byte :=
  (if r.zf then 0x80#8 else 0) ||| (if r.nf then 0x40#8 else 0) ||| (if r.hf then 0x20#8 else 0) |||
    (if r.cf then 0x10#8 else 0)

/-- `unpackFlags(x)` (R131): the four flags from bits 7 to 4, bits 3 to 0 ignored. -/
def RegFile.unpackFlags (r : RegFile) (x : Byte) : RegFile :=
  { r with zf := x.getLsbD 7, nf := x.getLsbD 6, hf := x.getLsbD 5, cf := x.getLsbD 4 }

/-- The view `af` (R39, R134). -/
def RegFile.af (r : RegFile) : Word := joinBytes r.a r.packFlags
/-- The view `bc` (R39, R136). -/
def RegFile.bc (r : RegFile) : Word := joinBytes r.b r.c
/-- The view `de` (R39, R136). -/
def RegFile.de (r : RegFile) : Word := joinBytes r.d r.e
/-- The view `hl` (R39, R136). -/
def RegFile.hl (r : RegFile) : Word := joinBytes r.h r.l

/-- A write of `af` (R135). -/
def RegFile.withAf (r : RegFile) (v : Word) : RegFile := { r with a := hiByte v }.unpackFlags (loByte v)
/-- A write of `bc` (R137). -/
def RegFile.withBc (r : RegFile) (v : Word) : RegFile := { r with b := hiByte v, c := loByte v }
/-- A write of `de` (R137). -/
def RegFile.withDe (r : RegFile) (v : Word) : RegFile := { r with d := hiByte v, e := loByte v }
/-- A write of `hl` (R137). -/
def RegFile.withHl (r : RegFile) (v : Word) : RegFile := { r with h := hiByte v, l := loByte v }

/-! ## Single fields -/

/-- `x[a] <- v` (R133). -/
def RegFile.withReg8A (r : RegFile) (v : Byte) : RegFile := { r with a := v }
/-- `x[b] <- v` (R133). -/
def RegFile.withReg8B (r : RegFile) (v : Byte) : RegFile := { r with b := v }
/-- `x[c] <- v` (R133). -/
def RegFile.withReg8C (r : RegFile) (v : Byte) : RegFile := { r with c := v }
/-- `x[d] <- v` (R133). -/
def RegFile.withReg8D (r : RegFile) (v : Byte) : RegFile := { r with d := v }
/-- `x[e] <- v` (R133). -/
def RegFile.withReg8E (r : RegFile) (v : Byte) : RegFile := { r with e := v }
/-- `x[h] <- v` (R133). -/
def RegFile.withReg8H (r : RegFile) (v : Byte) : RegFile := { r with h := v }
/-- `x[l] <- v` (R133). -/
def RegFile.withReg8L (r : RegFile) (v : Byte) : RegFile := { r with l := v }
/-- A write of `sp` (R139). -/
def RegFile.withSp (r : RegFile) (v : Word) : RegFile := { r with sp := v }
/-- A write of `pc` (R141). -/
def RegFile.withPc (r : RegFile) (v : Word) : RegFile := { r with pc := v }
/-- A write of the flag `zf` (R143). -/
def RegFile.withFlagZ (r : RegFile) (b : Bool) : RegFile := { r with zf := b }
/-- A write of the flag `nf` (R143). -/
def RegFile.withFlagN (r : RegFile) (b : Bool) : RegFile := { r with nf := b }
/-- A write of the flag `hf` (R143). -/
def RegFile.withFlagH (r : RegFile) (b : Bool) : RegFile := { r with hf := b }
/-- A write of the flag `cf` (R143). -/
def RegFile.withFlagC (r : RegFile) (b : Bool) : RegFile := { r with cf := b }

end Sys2Proof.Machine
end

