-- ==== Sys2Proof/Machine/RegisterFile.lean ====
section
/-! DEFINITION. The meanings of the register-file ports (40_register_file.md R132 to R143). No port reads or
writes memory-map or controller state (R144). -/

namespace Sys2Proof.Machine

/-- GET8 a (R132). -/
def execGet8A (s : State) : Out := s.giveByte s.rf.a

/-- GET8 b (R132). -/
def execGet8B (s : State) : Out := s.giveByte s.rf.b

/-- GET8 c (R132). -/
def execGet8C (s : State) : Out := s.giveByte s.rf.c

/-- GET8 d (R132). -/
def execGet8D (s : State) : Out := s.giveByte s.rf.d

/-- GET8 e (R132). -/
def execGet8E (s : State) : Out := s.giveByte s.rf.e

/-- GET8 h (R132). -/
def execGet8H (s : State) : Out := s.giveByte s.rf.h

/-- GET8 l (R132). -/
def execGet8L (s : State) : Out := s.giveByte s.rf.l

/-- SET8 a (R133). -/
def execSet8A (v : Byte) (s : State) : Out := s.finishRf (s.rf.withReg8A v)

/-- SET8 b (R133). -/
def execSet8B (v : Byte) (s : State) : Out := s.finishRf (s.rf.withReg8B v)

/-- SET8 c (R133). -/
def execSet8C (v : Byte) (s : State) : Out := s.finishRf (s.rf.withReg8C v)

/-- SET8 d (R133). -/
def execSet8D (v : Byte) (s : State) : Out := s.finishRf (s.rf.withReg8D v)

/-- SET8 e (R133). -/
def execSet8E (v : Byte) (s : State) : Out := s.finishRf (s.rf.withReg8E v)

/-- SET8 h (R133). -/
def execSet8H (v : Byte) (s : State) : Out := s.finishRf (s.rf.withReg8H v)

/-- SET8 l (R133). -/
def execSet8L (v : Byte) (s : State) : Out := s.finishRf (s.rf.withReg8L v)

/-- GET16 af (R134). -/
def execGet16Af (s : State) : Out := s.giveWord s.rf.af

/-- GET16 bc (R136). -/
def execGet16Bc (s : State) : Out := s.giveWord s.rf.bc

/-- GET16 de (R136). -/
def execGet16De (s : State) : Out := s.giveWord s.rf.de

/-- GET16 hl (R136). -/
def execGet16Hl (s : State) : Out := s.giveWord s.rf.hl

/-- GET16 sp (R138). -/
def execGet16Sp (s : State) : Out := s.giveWord s.rf.sp

/-- GET16 pc (R140). -/
def execGet16Pc (s : State) : Out := s.giveWord s.rf.pc

/-- SET16 af (R135). -/
def execSet16Af (v : Word) (s : State) : Out := s.finishRf (s.rf.withAf v)

/-- SET16 bc (R137). -/
def execSet16Bc (v : Word) (s : State) : Out := s.finishRf (s.rf.withBc v)

/-- SET16 de (R137). -/
def execSet16De (v : Word) (s : State) : Out := s.finishRf (s.rf.withDe v)

/-- SET16 hl (R137). -/
def execSet16Hl (v : Word) (s : State) : Out := s.finishRf (s.rf.withHl v)

/-- SET16 sp (R139). -/
def execSet16Sp (v : Word) (s : State) : Out := s.finishRf (s.rf.withSp v)

/-- SET16 pc (R141). -/
def execSet16Pc (v : Word) (s : State) : Out := s.finishRf (s.rf.withPc v)

/-- GETF z (R142). -/
def execGetfZ (s : State) : Out := s.giveFlag s.rf.zf

/-- GETF n (R142). -/
def execGetfN (s : State) : Out := s.giveFlag s.rf.nf

/-- GETF h (R142). -/
def execGetfH (s : State) : Out := s.giveFlag s.rf.hf

/-- GETF c (R142). -/
def execGetfC (s : State) : Out := s.giveFlag s.rf.cf

/-- SETF z (R143). -/
def execSetfZ (b : Bool) (s : State) : Out := s.finishRf (s.rf.withFlagZ b)

/-- SETF n (R143). -/
def execSetfN (b : Bool) (s : State) : Out := s.finishRf (s.rf.withFlagN b)

/-- SETF h (R143). -/
def execSetfH (b : Bool) (s : State) : Out := s.finishRf (s.rf.withFlagH b)

/-- SETF c (R143). -/
def execSetfC (b : Bool) (s : State) : Out := s.finishRf (s.rf.withFlagC b)

end Sys2Proof.Machine
end

