-- ==== Sys2Proof/Machine/Dispatch.lean ====
section
/-! DEFINITION. One arm for each constructor of `Instr`: the call of its meaning. -/

namespace Sys2Proof.Machine

def exec (i : Instr) (s : State) : Host.Outcome State Fault Refusal :=
  match i with
  | .rRom a => Sys2Proof.Machine.execRRom a s
  | .rVram a => Sys2Proof.Machine.execRVram a s
  | .rCram a => Sys2Proof.Machine.execRCram a s
  | .rWram a => Sys2Proof.Machine.execRWram a s
  | .rEcho a => Sys2Proof.Machine.execREcho a s
  | .rOam a => Sys2Proof.Machine.execROam a s
  | .rUnmapped a => Sys2Proof.Machine.execRUnmapped a s
  | .rIo a => Sys2Proof.Machine.execRIo a s
  | .rHram a => Sys2Proof.Machine.execRHram a s
  | .rIe a => Sys2Proof.Machine.execRIe a s
  | .wRom a v => Sys2Proof.Machine.execWRom a v s
  | .wVram a v => Sys2Proof.Machine.execWVram a v s
  | .wCram a v => Sys2Proof.Machine.execWCram a v s
  | .wWram a v => Sys2Proof.Machine.execWWram a v s
  | .wEcho a v => Sys2Proof.Machine.execWEcho a v s
  | .wOam a v => Sys2Proof.Machine.execWOam a v s
  | .wUnmapped a v => Sys2Proof.Machine.execWUnmapped a v s
  | .wIo a v => Sys2Proof.Machine.execWIo a v s
  | .wHram a v => Sys2Proof.Machine.execWHram a v s
  | .wIe a v => Sys2Proof.Machine.execWIe a v s
  | .rdw a => Sys2Proof.Machine.execRdw a s
  | .wrw a v => Sys2Proof.Machine.execWrw a v s
  | .nbRead0000 a => Sys2Proof.Machine.execNbRead0000 a s
  | .nbRead8000 a => Sys2Proof.Machine.execNbRead8000 a s
  | .nbWrite0000 a v => Sys2Proof.Machine.execNbWrite0000 a v s
  | .nbReadRam o => Sys2Proof.Machine.execNbReadRam o s
  | .nbWriteRam o v => Sys2Proof.Machine.execNbWriteRam o v s
  | .lbRead0000 a => Sys2Proof.Machine.execLbRead0000 a s
  | .lbRead4000 a => Sys2Proof.Machine.execLbRead4000 a s
  | .lbRead8000 a => Sys2Proof.Machine.execLbRead8000 a s
  | .lbWrite0000 a v => Sys2Proof.Machine.execLbWrite0000 a v s
  | .lbWrite2000 a v => Sys2Proof.Machine.execLbWrite2000 a v s
  | .lbWrite4000 a v => Sys2Proof.Machine.execLbWrite4000 a v s
  | .lbWrite6000 a v => Sys2Proof.Machine.execLbWrite6000 a v s
  | .lbWrite8000 a v => Sys2Proof.Machine.execLbWrite8000 a v s
  | .lbReadRam o => Sys2Proof.Machine.execLbReadRam o s
  | .lbWriteRam o v => Sys2Proof.Machine.execLbWriteRam o v s
  | .m2Read0000 a => Sys2Proof.Machine.execM2Read0000 a s
  | .m2Read4000 a => Sys2Proof.Machine.execM2Read4000 a s
  | .m2Read8000 a => Sys2Proof.Machine.execM2Read8000 a s
  | .m2WriteA8Clear a v => Sys2Proof.Machine.execM2WriteA8Clear a v s
  | .m2WriteA8Set a v => Sys2Proof.Machine.execM2WriteA8Set a v s
  | .m2Write4000 a v => Sys2Proof.Machine.execM2Write4000 a v s
  | .m2ReadRam o => Sys2Proof.Machine.execM2ReadRam o s
  | .m2WriteRam o v => Sys2Proof.Machine.execM2WriteRam o v s
  | .m3Read0000 a => Sys2Proof.Machine.execM3Read0000 a s
  | .m3Read4000 a => Sys2Proof.Machine.execM3Read4000 a s
  | .m3Read8000 a => Sys2Proof.Machine.execM3Read8000 a s
  | .m3Write0000 a v => Sys2Proof.Machine.execM3Write0000 a v s
  | .m3Write2000 a v => Sys2Proof.Machine.execM3Write2000 a v s
  | .m3Write4000 a v => Sys2Proof.Machine.execM3Write4000 a v s
  | .m3Write6000 a v => Sys2Proof.Machine.execM3Write6000 a v s
  | .m3Write8000 a v => Sys2Proof.Machine.execM3Write8000 a v s
  | .m3ReadRam o => Sys2Proof.Machine.execM3ReadRam o s
  | .m3WriteRam o v => Sys2Proof.Machine.execM3WriteRam o v s
  | .m5Read0000 a => Sys2Proof.Machine.execM5Read0000 a s
  | .m5Read4000 a => Sys2Proof.Machine.execM5Read4000 a s
  | .m5Read8000 a => Sys2Proof.Machine.execM5Read8000 a s
  | .m5Write0000 a v => Sys2Proof.Machine.execM5Write0000 a v s
  | .m5Write2000 a v => Sys2Proof.Machine.execM5Write2000 a v s
  | .m5Write3000 a v => Sys2Proof.Machine.execM5Write3000 a v s
  | .m5Write4000 a v => Sys2Proof.Machine.execM5Write4000 a v s
  | .m5Write6000 a v => Sys2Proof.Machine.execM5Write6000 a v s
  | .m5ReadRam o => Sys2Proof.Machine.execM5ReadRam o s
  | .m5WriteRam o v => Sys2Proof.Machine.execM5WriteRam o v s
  | .get8A => Sys2Proof.Machine.execGet8A s
  | .get8B => Sys2Proof.Machine.execGet8B s
  | .get8C => Sys2Proof.Machine.execGet8C s
  | .get8D => Sys2Proof.Machine.execGet8D s
  | .get8E => Sys2Proof.Machine.execGet8E s
  | .get8H => Sys2Proof.Machine.execGet8H s
  | .get8L => Sys2Proof.Machine.execGet8L s
  | .set8A v => Sys2Proof.Machine.execSet8A v s
  | .set8B v => Sys2Proof.Machine.execSet8B v s
  | .set8C v => Sys2Proof.Machine.execSet8C v s
  | .set8D v => Sys2Proof.Machine.execSet8D v s
  | .set8E v => Sys2Proof.Machine.execSet8E v s
  | .set8H v => Sys2Proof.Machine.execSet8H v s
  | .set8L v => Sys2Proof.Machine.execSet8L v s
  | .get16Af => Sys2Proof.Machine.execGet16Af s
  | .get16Bc => Sys2Proof.Machine.execGet16Bc s
  | .get16De => Sys2Proof.Machine.execGet16De s
  | .get16Hl => Sys2Proof.Machine.execGet16Hl s
  | .get16Sp => Sys2Proof.Machine.execGet16Sp s
  | .get16Pc => Sys2Proof.Machine.execGet16Pc s
  | .set16Af v => Sys2Proof.Machine.execSet16Af v s
  | .set16Bc v => Sys2Proof.Machine.execSet16Bc v s
  | .set16De v => Sys2Proof.Machine.execSet16De v s
  | .set16Hl v => Sys2Proof.Machine.execSet16Hl v s
  | .set16Sp v => Sys2Proof.Machine.execSet16Sp v s
  | .set16Pc v => Sys2Proof.Machine.execSet16Pc v s
  | .getfZ => Sys2Proof.Machine.execGetfZ s
  | .getfN => Sys2Proof.Machine.execGetfN s
  | .getfH => Sys2Proof.Machine.execGetfH s
  | .getfC => Sys2Proof.Machine.execGetfC s
  | .setfZ b => Sys2Proof.Machine.execSetfZ b s
  | .setfN b => Sys2Proof.Machine.execSetfN b s
  | .setfH b => Sys2Proof.Machine.execSetfH b s
  | .setfC b => Sys2Proof.Machine.execSetfC b s
  | .reset => Sys2Proof.Machine.execReset s
  | .loadrom image code => Sys2Proof.Machine.execLoadrom image code s

end Sys2Proof.Machine
end

