-- ==== Sys2Proof/Machine/Fetch.lean ====
section
/-! DEFINITION. Where a request comes from. The block does not fetch at a program counter: the caller issues
requests, and the model holds the ones not yet taken in `State.pending`, oldest first (log 1). -/

namespace Sys2Proof.Machine

/-- The oldest waiting request, and the state without it. -/
def State.takeRequest (s : State) : Option (Request × State) :=
  match s.pending with
  | [] => none
  | r :: rest => some (r, s.withPending rest)

/-- The refusal of a request the decoder gives no meaning (30_encoding.md R112). -/
def refusalOf : DecodeError → Refusal
  | .reservedRequest w => .reservedRequest w

end Sys2Proof.Machine
end

