-- ==== Sys2Proof/Machine/Step.lean ====
section
/-! DEFINITION. One step of the machine: one request, whole (20_memory.md R78, R80). -/

namespace Sys2Proof.Machine

/-- The oldest waiting request is taken off the list, decoded against the active variant, and run. With no
request waiting nothing changes (00_scope.md R18: "The block has no other source of change"; log 2). -/
def step (s : State) : Host.Outcome State Fault Refusal :=
  match s.takeRequest with
  | none => .next s
  | some (r, t) =>
    match decode t.variant r with
    | .ok i => exec i t
    | .error e => .refused (refusalOf e)

/-- The state in which the next request the step takes is the one of the table word `w`, its operand bits 0
(log 10). -/
def State.withFetchWord (s : State) (nbits w : Nat) : State := s.withPending (tableRequest nbits w :: s.pending)

end Sys2Proof.Machine
end

