-- ==== Sys2Proof/Safety.lean ====
section
/-! DEFINITION. The terms claims about the machine are stated in: one byte of storage and what it holds, what a
store changes, the invariant of a run, the words the decoder gives no meaning, and which requests are of which
kind. -/

namespace Sys2Proof.Machine

/-! ## One byte of storage -/

/-- A byte of storage (10_state.md R26, R27, R38). -/
inductive Loc where
  | buf (b : Buffer) (i : Nat)
  | ie
  /-- Byte `i` of the active controller's ROM image. -/
  | cartRom (i : Nat)
  /-- Cell `i` of the active controller's RAM array. -/
  | cartRam (i : Nat)
deriving DecidableEq, Repr

/-- The ROM a controller holds (R38); NoBanking's has 0x8000 bytes. -/
def Controller.romImage : Controller → Image
  | .noBanking c => { len := Config.stagingSize, cells := c.rom }
  | .linear c => c.rom
  | .mbc2 c => c.rom
  | .mbc3 c => c.rom
  | .mbc5 c => c.rom

/-- Cell `i` of a controller's RAM array, an MBC2 cell zero-extended to 8 bits. -/
def Controller.ramByte (c : Controller) (i : Nat) : Byte :=
  match c with
  | .noBanking c => Memory.get zeroCell c.ram i
  | .linear c => Memory.get zeroCell c.ram i
  | .mbc2 c => (Memory.get zeroCell c.ram i).setWidth 8
  | .mbc3 c => Memory.get zeroCell c.ram i
  | .mbc5 c => Memory.get zeroCell c.ram i

/-- A controller with its RAM array emptied: its kind, its registers and its ROM. -/
def Controller.sansRam : Controller → Controller
  | .noBanking c => .noBanking { c with ram := [] }
  | .linear c => .linear { c with ram := [] }
  | .mbc2 c => .mbc2 { c with ram := [] }
  | .mbc3 c => .mbc3 { c with ram := [] }
  | .mbc5 c => .mbc5 { c with ram := [] }

/-- What a byte of storage holds; 0x00 for a controller's bytes while there is no controller. -/
def peek (s : State) : Loc → Byte
  | .buf b i => s.mm.load b i
  | .ie => s.mm.ie
  | .cartRom i => match s.mm.cart with | some c => c.romImage.byte i | none => 0
  | .cartRam i => match s.mm.cart with | some c => c.ramByte i | none => 0

/-- `t` is `s` after a completed write that changed the byte at `l` to `v` and nothing else. -/
structure StoresOnly (s t : State) (l : Loc) (v : Byte) : Prop where
  value   : peek t l = v
  others  : ∀ k, k ≠ l → peek t k = peek s k
  banking : t.mm.cart.map Controller.sansRam = s.mm.cart.map Controller.sansRam
  rf      : t.rf = s.rf
  params  : t.params = s.params
  draws   : t.draws = s.draws
  pending : t.pending = s.pending
  resp    : t.resp = .done

/-- The RAM cell that offset `o` of the RAM window reaches for a write, by the controller's own mapping. -/
def Controller.ramTarget (c : Controller) (o : RamOffset) : Option Nat :=
  match c with
  | .noBanking _ => some o.toNat
  | .linear c => c.ramCell o
  | .mbc2 c => if c.ramEnabled then some (Mbc2.cell o) else none
  | .mbc3 c => c.ramCell o
  | .mbc5 c => c.ramCell o

/-- The byte of storage a write to `a` in the cartridge RAM range reaches (41_memory_map.md R185, R195). -/
def cramTarget (s : State) (a : Addr) : Option Loc :=
  match s.mm.cart with
  | none => some (.buf .xram (ramOffset a).toNat)
  | some c => (c.ramTarget (ramOffset a)).map .cartRam

/-! ## The invariant of a run -/

/-- An image is in canonical form. -/
def Image.wf (img : Image) : Bool := Memory.wf zeroCell img.len img.cells

/-- A controller's arrays are in canonical form and its bank registers hold values the spec calls legal
(10_state.md R34 to R37; 42_mbc_nobanking_linear.md R239, R240). -/
def Controller.wf : Controller → Bool
  | .noBanking c => Memory.wf zeroCell Config.stagingSize c.rom && Memory.wf zeroCell Config.noBankingRamSize c.ram
  | .linear c =>
    c.rom.wf && Memory.wf zeroCell Config.linearRamSize c.ram && decide (c.romBankSelect &&& 0x1F ≠ 0) &&
      decide (c.bankingMode = 1 → c.romBankSelect &&& 0x60 = 0)
  | .mbc2 c => c.rom.wf && Memory.wf zeroCell Config.mbc2Cells c.ram && decide (c.romBank ≠ 0)
  | .mbc3 c => c.rom.wf && Memory.wf zeroCell Config.mbc3RamSize c.ram && decide (c.romBank ≠ 0)
  | .mbc5 c => c.rom.wf && Memory.wf zeroCell Config.mbc5RamSize c.ram

/-- Every buffer is in canonical form within its capacity, OAM bytes 0xA0 to 0xFF are unlisted (R29), `staging`
is all 0x00 until a load (41_memory_map.md R195), and the controller is well formed. -/
def MemoryMap.wf (mm : MemoryMap) : Bool :=
  Memory.wf Buffer.staging.blank Config.stagingSize mm.staging && Memory.wf Buffer.vram.blank Config.vramSize mm.vram &&
  Memory.wf Buffer.xram.blank Config.xramSize mm.xram && Memory.wf Buffer.wram.blank Config.wramSize mm.wram &&
  Memory.wf Buffer.oam.blank Config.oamReachable mm.oam && Memory.wf Buffer.io.blank Config.ioSize mm.io &&
  Memory.wf Buffer.hram.blank Config.hramSize mm.hram &&
  (match mm.cart with | some c => c.wf | none => decide (mm.staging = []))

/-- The invariant every step keeps. -/
abbrev State.Inv (s : State) : Prop := s.mm.wf = true

/-- The LinearBanking part of it, in the words of R239 and R240: the low field is never 0, and in mode 1 the high
field is 0. -/
def State.LinearLegal (s : State) : Prop :=
  ∀ c, s.mm.cart = some (.linear c) →
    c.romBankSelect.toNat % 32 ≠ 0 ∧ (c.bankingMode = 1 → c.romBankSelect.toNat / 32 = 0)

/-! ## Reserved words -/

/-- The words of 30_encoding.md R103, R105 and R106 that have no meaning. -/
def ReservedWord : ReqWord → Prop
  | .bus _ => False
  | .cart c => 0x20000 ≤ c.toNat ∧ 0x2000 ≤ c.toNat % 0x10000
  | .reg r =>
    3 ≤ r.toNat / 16 % 8 ∨ (r.toNat / 16 % 8 = 0 ∧ 7 ≤ r.toNat % 16) ∨ (r.toNat / 16 % 8 = 1 ∧ 6 ≤ r.toNat % 16) ∨
      (r.toNat / 16 % 8 = 2 ∧ 4 ≤ r.toNat % 16)
  | .ctl k => 2 ≤ k.toNat

/-- The CART word of a controller `op` (00 read, 01 write, 10 readRAM, 11 writeRAM) at `A` means `i` while `var` is
active (30_encoding.md R102). -/
def CartMeans (var : Variant) (op a : Nat) (data : Word) (i : Instr) : Prop :=
  decode var { word := .cart (BitVec.ofNat 18 (op * 0x10000 + a)), data := data, image := [] } = .ok i

/-- The REG word `w` means `i` (R104), whatever the active variant. -/
def RegMeans (w : Nat) (data : Word) (i : Instr) : Prop :=
  ∀ var, decode var { word := .reg (BitVec.ofNat 8 w), data := data, image := [] } = .ok i

end Sys2Proof.Machine

namespace Sys2Proof

/-! ## Kinds of requests -/

/-- A word of the register-file port (30_encoding.md R104). -/
def ReqWord.isReg : ReqWord → Bool
  | .bus _ => false
  | .cart _ => false
  | .reg _ => true
  | .ctl _ => false

/-- A word that asks for a byte or word read, a controller read or a GET (R101, R102, R104). -/
def ReqWord.isRead : ReqWord → Bool
  | .bus q => !q.getLsbD 16
  | .cart c => !c.getLsbD 16
  | .reg r => !r.getLsbD 7
  | .ctl _ => false

/-- A word that asks for a byte write of the memory capability or of the controller capability (R101, R102). -/
def ReqWord.isByteWrite : ReqWord → Bool
  | .bus q => q.getLsbD 16 && !q.getLsbD 17
  | .cart c => c.getLsbD 16
  | .reg _ => false
  | .ctl _ => false

/-- The register-file ports. -/
def Instr.isReg (i : Instr) : Bool := (encode i).word.isReg

/-- The requests that read and write nothing (20_memory.md R79, 40_register_file.md R132 to R142). -/
def Instr.isRead (i : Instr) : Bool := (encode i).word.isRead

/-- The byte writes (20_memory.md R81). -/
def Instr.isByteWrite (i : Instr) : Bool := (encode i).word.isByteWrite

/-- `loadROM`. -/
def Instr.isLoadrom (i : Instr) : Bool := decide ((encode i).word = .ctl 0x01)

end Sys2Proof

namespace Sys2Proof.Machine

/-- An outcome with its next state changed by `f`, a stop left as it is. -/
def mapNext (f : State → State) : Out → Out
  | .next s => .next (f s)
  | .fault r => .fault r
  | .refused r => .refused r

/-- The addresses whose write "stores its byte and does nothing else" (20_memory.md R81): VRAM, WRAM and its echo,
OAM, I/O, HRAM and `ie`. -/
def PlainStorage (a : Addr) : Prop :=
  (0x8000 ≤ a.toNat ∧ a.toNat ≤ 0x9FFF) ∨ (0xC000 ≤ a.toNat ∧ a.toNat ≤ 0xFE9F) ∨ 0xFF00 ≤ a.toNat

end Sys2Proof.Machine
end

