-- ==== Sys2Proof/Certificates/Slice0/Obligations.lean ====
section
/-! DEFINITION. The statements for the provers. Each is about every state of the model, so it holds for every choice
of the parameters `INDEX_VIOLATION`, `EXTENDED_MBC`, `CART_RAM_INIT` and `REG_INIT` and for every value the free values
may take. A statement named "decision" or "general knowledge" rests on what the spec marks as its own (92_eei_decisions.md,
43_mbc_extended.md); "log n" is notes/assumptions/n.md. -/

open Sys2Proof Sys2Proof.Machine

/-- Words written bit by bit from the format tables decode to the requests they stand for. Cites 30_encoding.md, sections 1 and 3, opcode_table.json. -/
def Obligations.SampleWordsDecode : Prop :=
  decode .noBanking ⟨.bus 0b001100000000010000#18, 0, []⟩ = .ok (.rWram 0xC010) ∧
  decode .linear ⟨.bus 0b011111111101000000#18, 0x12A5, []⟩ = .ok (.wIo 0xFF40 0xA5) ∧
  decode .mbc2 ⟨.bus 0b101110000000000000#18, 0, []⟩ = .ok (.rdw 0xE000) ∧
  decode .mbc3 ⟨.bus 0b110101111111111111#18, 0xBEEF, []⟩ = .ok (.wrw 0x5FFF 0xBEEF) ∧
  decode .noBanking ⟨.cart 0b001000000000000000#18, 0, []⟩ = .ok (.nbRead8000 0x8000) ∧
  decode .linear ⟨.cart 0b010110000000000000#18, 0x0001, []⟩ = .ok (.lbWrite6000 0x6000 0x01) ∧
  decode .mbc2 ⟨.cart 0b010010000100000000#18, 0x0003, []⟩ = .ok (.m2WriteA8Set 0x2100 0x03) ∧
  decode .mbc3 ⟨.cart 0b100001111111111111#18, 0, []⟩ = .ok (.m3ReadRam 0x1FFF) ∧
  decode .mbc5 ⟨.cart 0b010011000000000000#18, 0x0001, []⟩ = .ok (.m5Write3000 0x3000 0x01) ∧
  decode .linear ⟨.reg 0b10010000#8, 0x12FF, []⟩ = .ok (.set16Af 0x12FF) ∧
  decode .linear ⟨.reg 0b00000110#8, 0, []⟩ = .ok .get8L ∧
  decode .linear ⟨.reg 0b10100011#8, 0x0001, []⟩ = .ok (.setfC true) ∧
  decode .mbc2 ⟨.ctl 0x00#8, 0, []⟩ = .ok .reset ∧
  decode .mbc2 ⟨.ctl 0x01#8, 0x001A, [0x3E, 0x42]⟩ = .ok (.loadrom [0x3E, 0x42] 0x1A)

/-- Decoding the request of any well-formed instruction gives the instruction back. Cites 30_encoding.md, sections 1 to 3, 92_eei_decisions.md D2. -/
def Obligations.DecodeInvertsEncode : Prop :=
  ∀ i : Instr, i.WellFormed → ∀ v : Variant, i.fits v → decode v (encode i) = .ok i

/-- What the decoder gives is a row of the active variant with its address in range, and has the word it was read from. Cites 30_encoding.md, sections 1 to 3, 92_eei_decisions.md D2. -/
def Obligations.DecodedRequestsAreRowsOfTheTable : Prop :=
  ∀ (v : Variant) (r : Request) (i : Instr), decode v r = .ok i →
    i.WellFormed ∧ i.fits v ∧ (encode i).word = r.word

/-- A word is refused by the decoder exactly when it is one of the reserved CART, REG or CTL words. Cites 30_encoding.md, section 4, 92_eei_decisions.md D2. -/
def Obligations.ReservedWordsHaveNoMeaning : Prop :=
  ∀ (v : Variant) (r : Request),
    (ReservedWord r.word → decode v r = .error (.reservedRequest r.word)) ∧
    (¬ ReservedWord r.word → ∃ i, decode v r = .ok i)

/-- A step takes the oldest waiting request, decodes it against the active variant and runs exactly it. Cites 20_memory.md, section 3, 30_encoding.md, section 3. -/
def Obligations.StepRunsTheDecodedRequest : Prop :=
  ∀ (s : State) (r : Request) (rest : List Request), s.pending = r :: rest →
    (∀ i, decode s.variant r = .ok i → step s = exec i { s with pending := rest }) ∧
    (ReservedWord r.word → step s = .refused (.reservedRequest r.word))

/-- With no request waiting a step changes nothing (the model's choice, log 2). Cites 00_scope.md, section 5, 20_memory.md, section 3. -/
def Obligations.StepWithNothingWaitingChangesNothing : Prop :=
  ∀ s : State, s.pending = [] → step s = .next s

/-- Each of the ten inclusive ranges of the decode table is owned by its region, and by no other address. Cites 41_memory_map.md, sections 1 and 7. -/
def Obligations.EveryAddressHasOneOwner : Prop :=
  ∀ a : Addr,
    (owner a = .cartRom ↔ a.toNat ≤ 0x7FFF) ∧ (owner a = .vram ↔ 0x8000 ≤ a.toNat ∧ a.toNat ≤ 0x9FFF) ∧
    (owner a = .cartRam ↔ 0xA000 ≤ a.toNat ∧ a.toNat ≤ 0xBFFF) ∧ (owner a = .wram ↔ 0xC000 ≤ a.toNat ∧ a.toNat ≤ 0xDFFF) ∧
    (owner a = .echo ↔ 0xE000 ≤ a.toNat ∧ a.toNat ≤ 0xFDFF) ∧ (owner a = .oam ↔ 0xFE00 ≤ a.toNat ∧ a.toNat ≤ 0xFE9F) ∧
    (owner a = .unmapped ↔ 0xFEA0 ≤ a.toNat ∧ a.toNat ≤ 0xFEFF) ∧ (owner a = .io ↔ 0xFF00 ≤ a.toNat ∧ a.toNat ≤ 0xFF7F) ∧
    (owner a = .hram ↔ 0xFF80 ≤ a.toNat ∧ a.toNat ≤ 0xFFFE) ∧ (owner a = .ie ↔ a.toNat = 0xFFFF)

/-- A byte read of a fixed region completes with the byte the decode table names, and changes nothing. Cites R173, R175, R176, R177, R179, R180, R181. -/
def Obligations.FixedRegionReads : Prop :=
  ∀ (s : State) (a : Addr),
    (0x8000 ≤ a.toNat → a.toNat ≤ 0x9FFF →
      exec (.rVram a) s = .next { s with resp := .byte (peek s (.buf .vram (a.toNat - 0x8000))) }) ∧
    (0xC000 ≤ a.toNat → a.toNat ≤ 0xDFFF →
      exec (.rWram a) s = .next { s with resp := .byte (peek s (.buf .wram (a.toNat - 0xC000))) }) ∧
    (0xE000 ≤ a.toNat → a.toNat ≤ 0xFDFF →
      exec (.rEcho a) s = .next { s with resp := .byte (peek s (.buf .wram (a.toNat - 0xE000))) }) ∧
    (0xFE00 ≤ a.toNat → a.toNat ≤ 0xFE9F →
      exec (.rOam a) s = .next { s with resp := .byte (peek s (.buf .oam (a.toNat - 0xFE00))) }) ∧
    (0xFF00 ≤ a.toNat → a.toNat ≤ 0xFF7F →
      exec (.rIo a) s = .next { s with resp := .byte (peek s (.buf .io (a.toNat - 0xFF00))) }) ∧
    (0xFF80 ≤ a.toNat → a.toNat ≤ 0xFFFE →
      exec (.rHram a) s = .next { s with resp := .byte (peek s (.buf .hram (a.toNat - 0xFF80))) }) ∧
    (a.toNat = 0xFFFF → exec (.rIe a) s = .next { s with resp := .byte (peek s .ie) })

/-- A read of 0xFEA0 to 0xFEFF returns 0xFF and a write there leaves the state unchanged. Cites R178, R189. -/
def Obligations.UnmappedReadsAllOnesAndIgnoresWrites : Prop :=
  ∀ (s : State) (a : Addr) (v : Byte), 0xFEA0 ≤ a.toNat → a.toNat ≤ 0xFEFF →
    exec (.rUnmapped a) s = .next { s with resp := .byte 0xFF } ∧
    exec (.wUnmapped a v) s = .next { s with resp := .done }

/-- A byte read of any of the 65,536 addresses completes with a byte and writes no state, in the production build. Cites 41_memory_map.md, sections 2 and 7, 95_test_vectors.md, section 1 (E3). -/
def Obligations.EveryByteReadCompletesInTheProductionBuild : Prop :=
  ∀ (s : State) (a : Addr), s.params.indexViolation = .degrade →
    ∃ (v : Byte) (n : Nat), exec (decodeRead a) s = .next { s with draws := n, resp := .byte v }

/-- Cartridge requests complete; a ROM-range write changes no byte, a RAM-range write only the cell it reaches (before a load by D6; MBC3 selects by D18, D19). Cites 41_memory_map.md, sections 2, 3 and 5, 20_memory.md, section 3, 43_mbc_extended.md, sections 2 to 4, 92_eei_decisions.md D6, D18 and D19. -/
def Obligations.CartridgeWindowsComplete : Prop :=
  ∀ (s : State) (a : Addr) (v : Byte),
    (a.toNat ≤ 0x7FFF → s.params.indexViolation = .degrade →
      ∃ b : Byte, exec (.rRom a) s = .next { s with resp := .byte b }) ∧
    (0xA000 ≤ a.toNat → a.toNat ≤ 0xBFFF →
      ∃ (b : Byte) (n : Nat), exec (.rCram a) s = .next { s with draws := n, resp := .byte b }) ∧
    (a.toNat ≤ 0x7FFF → ∃ t, exec (.wRom a v) s = .next t ∧ t = { s with mm := t.mm, resp := .done } ∧
      (∀ l, peek t l = peek s l) ∧ t.mm.cart.map Controller.variant = s.mm.cart.map Controller.variant) ∧
    (0xA000 ≤ a.toNat → a.toNat ≤ 0xBFFF → ∃ t, exec (.wCram a v) s = .next t ∧
      t = { s with mm := t.mm, resp := .done } ∧ (∀ l, cramTarget s a ≠ some l → peek t l = peek s l) ∧
      t.mm.cart.map Controller.sansRam = s.mm.cart.map Controller.sansRam ∧
      (cramTarget s a = none → t = { s with resp := .done }))

/-- A BUS request in a cartridge range does what the controller request of the same address or RAM offset does. Cites 41_memory_map.md, sections 2, 3 and 5, 42_mbc_nobanking_linear.md, section 1. -/
def Obligations.CartridgeWindowsAskTheActiveController : Prop :=
  ∀ (s : State) (a : Addr) (v : Byte) (i : Instr),
    (a.toNat ≤ 0x7FFF → CartMeans s.variant 0 a.toNat 0 i → exec (.rRom a) s = exec i s) ∧
    (a.toNat ≤ 0x7FFF → CartMeans s.variant 1 a.toNat (v.setWidth 16) i → exec (.wRom a v) s = exec i s) ∧
    (0xA000 ≤ a.toNat → a.toNat ≤ 0xBFFF → CartMeans s.variant 2 (a.toNat - 0xA000) 0 i → exec (.rCram a) s = exec i s) ∧
    (0xA000 ≤ a.toNat → a.toNat ≤ 0xBFFF → CartMeans s.variant 3 (a.toNat - 0xA000) (v.setWidth 16) i →
      exec (.wCram a v) s = exec i s)

/-- A byte write of a fixed region stores its byte at the place the decode table names, and changes nothing else. Cites R184, R186, R188, R190, R191, R192. -/
def Obligations.FixedRegionWrites : Prop :=
  ∀ (s : State) (a : Addr) (v : Byte),
    (0x8000 ≤ a.toNat → a.toNat ≤ 0x9FFF →
      ∃ t, exec (.wVram a v) s = .next t ∧ StoresOnly s t (.buf .vram (a.toNat - 0x8000)) v) ∧
    (0xC000 ≤ a.toNat → a.toNat ≤ 0xDFFF →
      ∃ t, exec (.wWram a v) s = .next t ∧ StoresOnly s t (.buf .wram (a.toNat - 0xC000)) v) ∧
    (0xFE00 ≤ a.toNat → a.toNat ≤ 0xFE9F →
      ∃ t, exec (.wOam a v) s = .next t ∧ StoresOnly s t (.buf .oam (a.toNat - 0xFE00)) v) ∧
    (0xFF00 ≤ a.toNat → a.toNat ≤ 0xFF7F →
      ∃ t, exec (.wIo a v) s = .next t ∧ StoresOnly s t (.buf .io (a.toNat - 0xFF00)) v) ∧
    (0xFF80 ≤ a.toNat → a.toNat ≤ 0xFFFE →
      ∃ t, exec (.wHram a v) s = .next t ∧ StoresOnly s t (.buf .hram (a.toNat - 0xFF80)) v) ∧
    (a.toNat = 0xFFFF → ∃ t, exec (.wIe a v) s = .next t ∧ StoresOnly s t .ie v)

/-- The echo range reads and writes the WRAM byte 0x2000 below, and only that byte. Cites 41_memory_map.md, sections 2 and 3, 95_test_vectors.md, section 1 (E8). -/
def Obligations.EchoIsWramInBothDirections : Prop :=
  ∀ (s : State) (a : Addr) (v : Byte), 0xE000 ≤ a.toNat → a.toNat ≤ 0xFDFF →
    exec (.rEcho a) s = exec (.rWram (a - 0x2000)) s ∧
    exec (.wEcho a v) s = exec (.wWram (a - 0x2000) v) s ∧
    ∃ t, exec (.wEcho a v) s = .next t ∧ StoresOnly s t (.buf .wram (a.toNat - 0xE000)) v

/-- A word access is two byte accesses, the byte at addr in the low half and first (decision D5), the one at addr + 1 in the high half; raises are kept. Cites 20_memory.md, section 1, 41_memory_map.md, section 4, 60_exceptions.md, sections 1 and 2, 92_eei_decisions.md D5. -/
def Obligations.WordAccessesAreLittleEndian : Prop :=
  ∀ (s : State) (a : Addr) (v : Word), a.toNat < 0xFFFF →
    (s.params.indexViolation = .degrade → ∃ (lo hi : Byte) (t u : State),
      exec (decodeRead a) s = .next t ∧ t.resp = .byte lo ∧ exec (decodeRead (a + 1)) t = .next u ∧ u.resp = .byte hi ∧
      exec (.rdw a) s = .next { u with resp := .word (BitVec.ofNat 16 (hi.toNat * 256 + lo.toNat)) }) ∧
    (∀ f, exec (decodeRead a) s = .fault f → exec (.rdw a) s = .fault f) ∧
    (∀ t f, exec (decodeRead a) s = .next t → exec (decodeRead (a + 1)) t = .fault f → exec (.rdw a) s = .fault f) ∧
    ∃ t u : State, exec (decodeWrite a (BitVec.ofNat 8 (v.toNat % 256))) s = .next t ∧
      exec (decodeWrite (a + 1) (BitVec.ofNat 8 (v.toNat / 256))) t = .next u ∧ exec (.wrw a v) s = .next u

/-- A word access at 0xFFFF uses the interrupt-enable byte and address 0x0000 (the spec's own decision D4). Cites 20_memory.md, section 2, 92_eei_decisions.md D4. -/
def Obligations.WordAtTheTopWrapsToAddressZero : Prop :=
  ∀ (s : State) (v : Word),
    (s.params.indexViolation = .degrade → ∃ b : Byte, exec (.rRom 0x0000) s = .next { s with resp := .byte b } ∧
      exec (.rdw 0xFFFF) s = .next { s with resp := .word (BitVec.ofNat 16 (b.toNat * 256 + (peek s .ie).toNat)) }) ∧
    exec (.wrw 0xFFFF v) s =
      exec (.wRom 0x0000 (BitVec.ofNat 8 (v.toNat / 256))) { s with mm := { s.mm with ie := BitVec.ofNat 8 (v.toNat % 256) } }

/-- In plain storage a word read returns the word written, and each byte read its half. Cites 20_memory.md, section 3, 41_memory_map.md, section 4. -/
def Obligations.WordReadsReturnTheWordWritten : Prop :=
  ∀ (s : State) (a : Addr) (v : Word), PlainStorage a → PlainStorage (a + 1) →
    ∃ t, exec (.wrw a v) s = .next t ∧ exec (.rdw a) t = .next { t with resp := .word v } ∧
      exec (decodeRead a) t = .next { t with resp := .byte (BitVec.ofNat 8 (v.toNat % 256)) } ∧
      exec (decodeRead (a + 1)) t = .next { t with resp := .byte (BitVec.ofNat 8 (v.toNat / 256)) }

/-- A word write at 0x5FFF lands its low byte under the old banking mode, then sets the mode (decision D5). Cites 70_reset_and_hazards.md, section 3, 92_eei_decisions.md D5. -/
def Obligations.WordWriteAcrossTheModeRegister : Prop :=
  ∀ (s : State) (c : LinearBanking) (v : Word), s.mm.cart = some (.linear c) →
    exec (.wrw 0x5FFF v) s = .next { s with
      mm := { s.mm with cart := some (.linear { c with
        bankingMode := BitVec.ofNat 1 (v.toNat / 256)
        ramBankSelect := if c.bankingMode = 0 then c.ramBankSelect else BitVec.ofNat 2 (v.toNat % 4)
        romBankSelect :=
          if v.toNat / 256 % 2 = 1 then BitVec.ofNat 7 (c.romBankSelect.toNat % 32)
          else if c.bankingMode = 0 then BitVec.ofNat 7 (v.toNat % 4 * 32 + c.romBankSelect.toNat % 32)
          else c.romBankSelect }) }
      resp := .done }

/-- Before the first loadROM the cartridge ranges read staging and read and write xram (the spec's own decision D6). Cites 41_memory_map.md, section 5, 92_eei_decisions.md D6. -/
def Obligations.BeforeTheFirstLoadStagingAndXramServeTheCartridge : Prop :=
  ∀ (s : State) (a : Addr) (v : Byte), s.mm.cart = none →
    (a.toNat ≤ 0x7FFF →
      exec (.rRom a) s = .next { s with resp := .byte (peek s (.buf .staging a.toNat)) } ∧
      exec (.wRom a v) s = .next { s with resp := .done }) ∧
    (0xA000 ≤ a.toNat → a.toNat ≤ 0xBFFF →
      exec (.rCram a) s = .next { s with resp := .byte (peek s (.buf .xram (a.toNat - 0xA000))) } ∧
      ∃ t, exec (.wCram a v) s = .next t ∧ StoresOnly s t (.buf .xram (a.toNat - 0xA000)) v)

/-- NB.READ returns rom[a] below 0x8000 and 0xFF at and above it. Cites R222. -/
def Obligations.NoBankingReadsItsRom : Prop :=
  ∀ (s : State) (c : NoBanking) (a : Addr), s.mm.cart = some (.noBanking c) →
    (a.toNat < 0x8000 → CartMeans .noBanking 0 a.toNat 0 (.nbRead0000 a) ∧
      exec (.nbRead0000 a) s = .next { s with resp := .byte (peek s (.cartRom a.toNat)) }) ∧
    (0x8000 ≤ a.toNat → CartMeans .noBanking 0 a.toNat 0 (.nbRead8000 a) ∧
      exec (.nbRead8000 a) s = .next { s with resp := .byte 0xFF })

/-- NB.WRITE does nothing; NB.READRAM and NB.WRITERAM reach the RAM byte at the offset, with no enable. Cites R223, R224, R225. -/
def Obligations.NoBankingRamIsAlwaysEnabled : Prop :=
  ∀ (s : State) (c : NoBanking) (a : Addr) (o : RamOffset) (v : Byte), s.mm.cart = some (.noBanking c) →
    (CartMeans .noBanking 1 a.toNat (v.setWidth 16) (.nbWrite0000 a v) ∧
      exec (.nbWrite0000 a v) s = .next { s with resp := .done }) ∧
    (CartMeans .noBanking 2 o.toNat 0 (.nbReadRam o) ∧
      exec (.nbReadRam o) s = .next { s with resp := .byte (peek s (.cartRam o.toNat)) }) ∧
    (CartMeans .noBanking 3 o.toNat (v.setWidth 16) (.nbWriteRam o v) ∧
      ∃ t, exec (.nbWriteRam o v) s = .next t ∧ StoresOnly s t (.cartRam o.toNat) v)

/-- LB.READ below 0x4000 is rom[a] whatever the bank registers; beyond a short image 0xFF or the debug-build fault (D13). Cites 42_mbc_nobanking_linear.md, section 3, 60_exceptions.md, section 1, 92_eei_decisions.md D13. -/
def Obligations.LinearBankZeroReads : Prop :=
  ∀ (s : State) (c : LinearBanking) (a : Addr), s.mm.cart = some (.linear c) → a.toNat ≤ 0x3FFF →
    CartMeans .linear 0 a.toNat 0 (.lbRead0000 a) ∧
    (a.toNat < c.rom.len → exec (.lbRead0000 a) s = .next { s with resp := .byte (peek s (.cartRom a.toNat)) }) ∧
    (c.rom.len ≤ a.toNat → s.params.indexViolation = .degrade →
      exec (.lbRead0000 a) s = .next { s with resp := .byte 0xFF }) ∧
    (c.rom.len ≤ a.toNat → s.params.indexViolation = .fault →
      exec (.lbRead0000 a) s = .fault (.internalIndexViolation a))

/-- LB.READ of 0x4000 to 0x7FFF shows the effective ROM bank, 0xFF beyond the image; from 0x8000 on it is 0xFF. Cites R227, R229, R230. -/
def Obligations.LinearSwitchableWindow : Prop :=
  ∀ (s : State) (c : LinearBanking) (a : Addr) (bank off : Nat), s.mm.cart = some (.linear c) →
    bank = c.romBankSelect.toNat / 32 * 32 + (if c.romBankSelect.toNat % 32 = 0 then 1 else c.romBankSelect.toNat % 32) →
    off = bank * 0x4000 + (a.toNat - 0x4000) →
    c.effRomBank.toNat = bank ∧
    (0x4000 ≤ a.toNat → a.toNat ≤ 0x7FFF → CartMeans .linear 0 a.toNat 0 (.lbRead4000 a) ∧
      exec (.lbRead4000 a) s =
        .next { s with resp := .byte (if off < c.rom.len then peek s (.cartRom off) else 0xFF) }) ∧
    (0x8000 ≤ a.toNat → CartMeans .linear 0 a.toNat 0 (.lbRead8000 a) ∧
      exec (.lbRead8000 a) s = .next { s with resp := .byte 0xFF })

/-- Each LinearBanking control write sets exactly its register: enable latch, low bank bits, upper bits by mode, mode. Cites R231, R232, R233, R234. -/
def Obligations.LinearRegisterWrites : Prop :=
  ∀ (s : State) (c : LinearBanking) (a : Addr) (v : Byte), s.mm.cart = some (.linear c) →
    (a.toNat ≤ 0x1FFF → CartMeans .linear 1 a.toNat (v.setWidth 16) (.lbWrite0000 a v) ∧
      exec (.lbWrite0000 a v) s = .next { s with
        mm := { s.mm with cart := some (.linear { c with ramEnabled := decide (v.toNat % 16 = 10) }) }, resp := .done }) ∧
    (0x2000 ≤ a.toNat → a.toNat ≤ 0x3FFF → CartMeans .linear 1 a.toNat (v.setWidth 16) (.lbWrite2000 a v) ∧
      exec (.lbWrite2000 a v) s = .next { s with
        mm := { s.mm with cart := some (.linear { c with
          romBankSelect := BitVec.ofNat 7 (c.romBankSelect.toNat / 32 * 32 + max (v.toNat % 32) 1) }) }, resp := .done }) ∧
    (0x4000 ≤ a.toNat → a.toNat ≤ 0x5FFF → CartMeans .linear 1 a.toNat (v.setWidth 16) (.lbWrite4000 a v) ∧
      (c.bankingMode = 0 → exec (.lbWrite4000 a v) s = .next { s with
        mm := { s.mm with cart := some (.linear { c with
          romBankSelect := BitVec.ofNat 7 (v.toNat % 4 * 32 + c.romBankSelect.toNat % 32) }) }, resp := .done }) ∧
      (c.bankingMode = 1 → exec (.lbWrite4000 a v) s = .next { s with
        mm := { s.mm with cart := some (.linear { c with ramBankSelect := BitVec.ofNat 2 (v.toNat % 4) }) }, resp := .done })) ∧
    (0x6000 ≤ a.toNat → a.toNat ≤ 0x7FFF → CartMeans .linear 1 a.toNat (v.setWidth 16) (.lbWrite6000 a v) ∧
      exec (.lbWrite6000 a v) s = .next { s with
        mm := { s.mm with cart := some (.linear { c with
          bankingMode := BitVec.ofNat 1 (v.toNat % 2)
          romBankSelect := if v.toNat % 2 = 1 then BitVec.ofNat 7 (c.romBankSelect.toNat % 32) else c.romBankSelect }) }
        resp := .done })

/-- LB.READRAM and LB.WRITERAM reach ram[bank * 0x2000 + o] while RAM is enabled; otherwise 0xFF and nothing. Cites R236, R237, R238. -/
def Obligations.LinearRamWindow : Prop :=
  ∀ (s : State) (c : LinearBanking) (o : RamOffset) (v : Byte) (bank : Nat), s.mm.cart = some (.linear c) →
    bank = (if c.bankingMode = 1 then c.ramBankSelect.toNat else 0) →
    c.effRamBank.toNat = bank ∧
    CartMeans .linear 2 o.toNat 0 (.lbReadRam o) ∧ CartMeans .linear 3 o.toNat (v.setWidth 16) (.lbWriteRam o v) ∧
    (c.ramEnabled = true →
      exec (.lbReadRam o) s = .next { s with resp := .byte (peek s (.cartRam (bank * 0x2000 + o.toNat))) } ∧
      ∃ t, exec (.lbWriteRam o v) s = .next t ∧ StoresOnly s t (.cartRam (bank * 0x2000 + o.toNat)) v) ∧
    (c.ramEnabled = false →
      exec (.lbReadRam o) s = .next { s with resp := .byte 0xFF } ∧
      exec (.lbWriteRam o v) s = .next { s with resp := .done })

/-- MBC2, MBC3 and MBC5 reads below 0x4000 are rom[a]; beyond a short image 0xFF or the debug-build fault. Cites 43_mbc_extended.md, sections 1 to 4, 60_exceptions.md, section 1. -/
def Obligations.ExtendedBankZeroReads : Prop :=
  ∀ (s : State) (a : Addr),
    (∀ c : Mbc2, s.mm.cart = some (.mbc2 c) → a.toNat ≤ 0x3FFF →
      CartMeans .mbc2 0 a.toNat 0 (.m2Read0000 a) ∧
      (a.toNat < c.rom.len → exec (.m2Read0000 a) s = .next { s with resp := .byte (peek s (.cartRom a.toNat)) }) ∧
      (c.rom.len ≤ a.toNat → s.params.indexViolation = .degrade →
        exec (.m2Read0000 a) s = .next { s with resp := .byte 0xFF }) ∧
      (c.rom.len ≤ a.toNat → s.params.indexViolation = .fault →
        exec (.m2Read0000 a) s = .fault (.internalIndexViolation a))) ∧
    (∀ c : Mbc3, s.mm.cart = some (.mbc3 c) → a.toNat ≤ 0x3FFF →
      CartMeans .mbc3 0 a.toNat 0 (.m3Read0000 a) ∧
      (a.toNat < c.rom.len → exec (.m3Read0000 a) s = .next { s with resp := .byte (peek s (.cartRom a.toNat)) }) ∧
      (c.rom.len ≤ a.toNat → s.params.indexViolation = .degrade →
        exec (.m3Read0000 a) s = .next { s with resp := .byte 0xFF }) ∧
      (c.rom.len ≤ a.toNat → s.params.indexViolation = .fault →
        exec (.m3Read0000 a) s = .fault (.internalIndexViolation a))) ∧
    (∀ c : Mbc5, s.mm.cart = some (.mbc5 c) → a.toNat ≤ 0x3FFF →
      CartMeans .mbc5 0 a.toNat 0 (.m5Read0000 a) ∧
      (a.toNat < c.rom.len → exec (.m5Read0000 a) s = .next { s with resp := .byte (peek s (.cartRom a.toNat)) }) ∧
      (c.rom.len ≤ a.toNat → s.params.indexViolation = .degrade →
        exec (.m5Read0000 a) s = .next { s with resp := .byte 0xFF }) ∧
      (c.rom.len ≤ a.toNat → s.params.indexViolation = .fault →
        exec (.m5Read0000 a) s = .fault (.internalIndexViolation a)))

/-- MBC2, MBC3 and MBC5 reads of 0x4000 to 0x7FFF show the selected bank, 0xFF beyond the image; above, 0xFF. Cites 43_mbc_extended.md, sections 1 to 4. -/
def Obligations.ExtendedSwitchableWindows : Prop :=
  ∀ (s : State) (a : Addr) (off : Nat),
    (∀ c : Mbc2, s.mm.cart = some (.mbc2 c) →
      (0x4000 ≤ a.toNat → a.toNat ≤ 0x7FFF → off = c.romBank.toNat * 0x4000 + (a.toNat - 0x4000) →
        CartMeans .mbc2 0 a.toNat 0 (.m2Read4000 a) ∧
        exec (.m2Read4000 a) s =
          .next { s with resp := .byte (if off < c.rom.len then peek s (.cartRom off) else 0xFF) }) ∧
      (0x8000 ≤ a.toNat → CartMeans .mbc2 0 a.toNat 0 (.m2Read8000 a) ∧
        exec (.m2Read8000 a) s = .next { s with resp := .byte 0xFF })) ∧
    (∀ c : Mbc3, s.mm.cart = some (.mbc3 c) →
      (0x4000 ≤ a.toNat → a.toNat ≤ 0x7FFF → off = c.romBank.toNat * 0x4000 + (a.toNat - 0x4000) →
        CartMeans .mbc3 0 a.toNat 0 (.m3Read4000 a) ∧
        exec (.m3Read4000 a) s =
          .next { s with resp := .byte (if off < c.rom.len then peek s (.cartRom off) else 0xFF) }) ∧
      (0x8000 ≤ a.toNat → CartMeans .mbc3 0 a.toNat 0 (.m3Read8000 a) ∧
        exec (.m3Read8000 a) s = .next { s with resp := .byte 0xFF })) ∧
    (∀ c : Mbc5, s.mm.cart = some (.mbc5 c) →
      (0x4000 ≤ a.toNat → a.toNat ≤ 0x7FFF → off = (c.romBankHi.toNat * 256 + c.romBankLo.toNat) * 0x4000 + (a.toNat - 0x4000) →
        CartMeans .mbc5 0 a.toNat 0 (.m5Read4000 a) ∧
        exec (.m5Read4000 a) s =
          .next { s with resp := .byte (if off < c.rom.len then peek s (.cartRom off) else 0xFF) }) ∧
      (0x8000 ≤ a.toNat → CartMeans .mbc5 0 a.toNat 0 (.m5Read8000 a) ∧
        exec (.m5Read8000 a) s = .next { s with resp := .byte 0xFF }))

/-- MBC2: below 0x4000 address bit 8 picks the enable latch or the 4-bit ROM bank, 0 replaced by 1. Cites 43_mbc_extended.md, section 2. -/
def Obligations.Mbc2RegisterWrites : Prop :=
  ∀ (s : State) (c : Mbc2) (a : Addr) (v : Byte), s.mm.cart = some (.mbc2 c) → a.toNat ≤ 0x3FFF →
    (a.toNat / 256 % 2 = 0 → CartMeans .mbc2 1 a.toNat (v.setWidth 16) (.m2WriteA8Clear a v) ∧
      exec (.m2WriteA8Clear a v) s =
        .next { s with mm := { s.mm with cart := some (.mbc2 { c with ramEnabled := decide (v.toNat % 16 = 10) }) }, resp := .done }) ∧
    (a.toNat / 256 % 2 = 1 → CartMeans .mbc2 1 a.toNat (v.setWidth 16) (.m2WriteA8Set a v) ∧
      exec (.m2WriteA8Set a v) s =
        .next { s with mm := { s.mm with cart := some (.mbc2 { c with romBank := BitVec.ofNat 4 (max (v.toNat % 16) 1) }) }, resp := .done })

/-- MBC2 RAM: 512 nibbles that repeat; a read's upper nibble is a free value, a write keeps the low nibble. Cites 43_mbc_extended.md, section 2, 92_eei_decisions.md D17. -/
def Obligations.Mbc2NibbleRam : Prop :=
  ∀ (s : State) (c : Mbc2) (o : RamOffset) (v : Byte), s.mm.cart = some (.mbc2 c) →
    CartMeans .mbc2 2 o.toNat 0 (.m2ReadRam o) ∧ CartMeans .mbc2 3 o.toNat (v.setWidth 16) (.m2WriteRam o v) ∧
    (c.ramEnabled = true →
      (∃ b : Byte, exec (.m2ReadRam o) s = .next { s with draws := s.draws + 1, resp := .byte b } ∧
        b.toNat % 16 = (peek s (.cartRam (o.toNat % 0x200))).toNat) ∧
      ∃ t, exec (.m2WriteRam o v) s = .next t ∧
        StoresOnly s t (.cartRam (o.toNat % 0x200)) (BitVec.ofNat 8 (v.toNat % 16))) ∧
    (c.ramEnabled = false →
      exec (.m2ReadRam o) s = .next { s with resp := .byte 0xFF } ∧
      exec (.m2WriteRam o v) s = .next { s with resp := .done })

/-- MBC3: enable latch, 7-bit ROM bank with 0 replaced by 1, and the 8-bit select. Cites 43_mbc_extended.md, section 3. -/
def Obligations.Mbc3RegisterWrites : Prop :=
  ∀ (s : State) (c : Mbc3) (a : Addr) (v : Byte), s.mm.cart = some (.mbc3 c) →
    (a.toNat ≤ 0x1FFF → CartMeans .mbc3 1 a.toNat (v.setWidth 16) (.m3Write0000 a v) ∧
      exec (.m3Write0000 a v) s =
        .next { s with mm := { s.mm with cart := some (.mbc3 { c with ramEnabled := decide (v.toNat % 16 = 10) }) }, resp := .done }) ∧
    (0x2000 ≤ a.toNat → a.toNat ≤ 0x3FFF → CartMeans .mbc3 1 a.toNat (v.setWidth 16) (.m3Write2000 a v) ∧
      exec (.m3Write2000 a v) s =
        .next { s with mm := { s.mm with cart := some (.mbc3 { c with romBank := BitVec.ofNat 7 (max (v.toNat % 128) 1) }) }, resp := .done }) ∧
    (0x4000 ≤ a.toNat → a.toNat ≤ 0x5FFF → CartMeans .mbc3 1 a.toNat (v.setWidth 16) (.m3Write4000 a v) ∧
      exec (.m3Write4000 a v) s =
        .next { s with mm := { s.mm with cart := some (.mbc3 { c with select := v }) }, resp := .done })

/-- MBC3 RAM window by select: a RAM bank for 0 to 3, a free value for the RTC selects, 0xFF and nothing otherwise. Cites 43_mbc_extended.md, section 3, 92_eei_decisions.md D18 and D19. -/
def Obligations.Mbc3RamWindow : Prop :=
  ∀ (s : State) (c : Mbc3) (o : RamOffset) (v : Byte), s.mm.cart = some (.mbc3 c) →
    CartMeans .mbc3 2 o.toNat 0 (.m3ReadRam o) ∧ CartMeans .mbc3 3 o.toNat (v.setWidth 16) (.m3WriteRam o v) ∧
    (c.ramEnabled = true → c.select.toNat ≤ 3 →
      exec (.m3ReadRam o) s = .next { s with resp := .byte (peek s (.cartRam (c.select.toNat * 0x2000 + o.toNat))) } ∧
      ∃ t, exec (.m3WriteRam o v) s = .next t ∧ StoresOnly s t (.cartRam (c.select.toNat * 0x2000 + o.toNat)) v) ∧
    (c.ramEnabled = true → 0x08 ≤ c.select.toNat → c.select.toNat ≤ 0x0C →
      ∃ b : Byte, exec (.m3ReadRam o) s = .next { s with draws := s.draws + 1, resp := .byte b }) ∧
    (c.ramEnabled = false ∨ (0x04 ≤ c.select.toNat ∧ c.select.toNat ≤ 0x07) ∨ 0x0D ≤ c.select.toNat →
      exec (.m3ReadRam o) s = .next { s with resp := .byte 0xFF }) ∧
    (c.ramEnabled = false ∨ 0x04 ≤ c.select.toNat → exec (.m3WriteRam o v) s = .next { s with resp := .done })

/-- MBC5: enable latch, low 8 and high 1 bits of the 9-bit ROM bank, and the 4-bit RAM bank. Cites 43_mbc_extended.md, section 4. -/
def Obligations.Mbc5RegisterWrites : Prop :=
  ∀ (s : State) (c : Mbc5) (a : Addr) (v : Byte), s.mm.cart = some (.mbc5 c) →
    (a.toNat ≤ 0x1FFF → CartMeans .mbc5 1 a.toNat (v.setWidth 16) (.m5Write0000 a v) ∧
      exec (.m5Write0000 a v) s =
        .next { s with mm := { s.mm with cart := some (.mbc5 { c with ramEnabled := decide (v.toNat % 16 = 10) }) }, resp := .done }) ∧
    (0x2000 ≤ a.toNat → a.toNat ≤ 0x2FFF → CartMeans .mbc5 1 a.toNat (v.setWidth 16) (.m5Write2000 a v) ∧
      exec (.m5Write2000 a v) s =
        .next { s with mm := { s.mm with cart := some (.mbc5 { c with romBankLo := v }) }, resp := .done }) ∧
    (0x3000 ≤ a.toNat → a.toNat ≤ 0x3FFF → CartMeans .mbc5 1 a.toNat (v.setWidth 16) (.m5Write3000 a v) ∧
      exec (.m5Write3000 a v) s =
        .next { s with mm := { s.mm with cart := some (.mbc5 { c with romBankHi := BitVec.ofNat 1 (v.toNat % 2) }) }, resp := .done }) ∧
    (0x4000 ≤ a.toNat → a.toNat ≤ 0x5FFF → CartMeans .mbc5 1 a.toNat (v.setWidth 16) (.m5Write4000 a v) ∧
      exec (.m5Write4000 a v) s =
        .next { s with mm := { s.mm with cart := some (.mbc5 { c with ramBank := BitVec.ofNat 4 (v.toNat % 16) }) }, resp := .done })

/-- MBC5 RAM: ram[ramBank * 0x2000 + o] while enabled; otherwise 0xFF and nothing. Cites 43_mbc_extended.md, section 4. -/
def Obligations.Mbc5RamWindow : Prop :=
  ∀ (s : State) (c : Mbc5) (o : RamOffset) (v : Byte), s.mm.cart = some (.mbc5 c) →
    CartMeans .mbc5 2 o.toNat 0 (.m5ReadRam o) ∧ CartMeans .mbc5 3 o.toNat (v.setWidth 16) (.m5WriteRam o v) ∧
    (c.ramEnabled = true →
      exec (.m5ReadRam o) s = .next { s with resp := .byte (peek s (.cartRam (c.ramBank.toNat * 0x2000 + o.toNat))) } ∧
      ∃ t, exec (.m5WriteRam o v) s = .next t ∧ StoresOnly s t (.cartRam (c.ramBank.toNat * 0x2000 + o.toNat)) v) ∧
    (c.ramEnabled = false →
      exec (.m5ReadRam o) s = .next { s with resp := .byte 0xFF } ∧
      exec (.m5WriteRam o v) s = .next { s with resp := .done })

/-- A controller write at an address with no register completes and changes no state (decisions D14, D18). Cites 42_mbc_nobanking_linear.md, section 3, 43_mbc_extended.md, sections 2 to 4, 92_eei_decisions.md D14 and D18. -/
def Obligations.ControllerWritesThatSetNoRegister : Prop :=
  ∀ (s : State) (a : Addr) (v : Byte),
    (∀ c, s.mm.cart = some (.linear c) → 0x8000 ≤ a.toNat →
      CartMeans .linear 1 a.toNat (v.setWidth 16) (.lbWrite8000 a v) ∧ exec (.lbWrite8000 a v) s = .next { s with resp := .done }) ∧
    (∀ c, s.mm.cart = some (.mbc2 c) → 0x4000 ≤ a.toNat →
      CartMeans .mbc2 1 a.toNat (v.setWidth 16) (.m2Write4000 a v) ∧ exec (.m2Write4000 a v) s = .next { s with resp := .done }) ∧
    (∀ c, s.mm.cart = some (.mbc3 c) → 0x6000 ≤ a.toNat → a.toNat ≤ 0x7FFF →
      CartMeans .mbc3 1 a.toNat (v.setWidth 16) (.m3Write6000 a v) ∧ exec (.m3Write6000 a v) s = .next { s with resp := .done }) ∧
    (∀ c, s.mm.cart = some (.mbc3 c) → 0x8000 ≤ a.toNat →
      CartMeans .mbc3 1 a.toNat (v.setWidth 16) (.m3Write8000 a v) ∧ exec (.m3Write8000 a v) s = .next { s with resp := .done }) ∧
    (∀ c, s.mm.cart = some (.mbc5 c) → 0x6000 ≤ a.toNat →
      CartMeans .mbc5 1 a.toNat (v.setWidth 16) (.m5Write6000 a v) ∧ exec (.m5Write6000 a v) s = .next { s with resp := .done })

/-- GET8 of each of the seven registers completes with its byte and writes no state. Cites R132. -/
def Obligations.Get8ReturnsTheRegister : Prop :=
  ∀ s : State,
    RegMeans 0x00 0 .get8A ∧ exec .get8A s = .next { s with resp := .byte s.rf.a } ∧
    RegMeans 0x01 0 .get8B ∧ exec .get8B s = .next { s with resp := .byte s.rf.b } ∧
    RegMeans 0x02 0 .get8C ∧ exec .get8C s = .next { s with resp := .byte s.rf.c } ∧
    RegMeans 0x03 0 .get8D ∧ exec .get8D s = .next { s with resp := .byte s.rf.d } ∧
    RegMeans 0x04 0 .get8E ∧ exec .get8E s = .next { s with resp := .byte s.rf.e } ∧
    RegMeans 0x05 0 .get8H ∧ exec .get8H s = .next { s with resp := .byte s.rf.h } ∧
    RegMeans 0x06 0 .get8L ∧ exec .get8L s = .next { s with resp := .byte s.rf.l }

/-- SET8 of each of the seven registers completes and writes that register only, no flag. Cites R133. -/
def Obligations.Set8WritesOnlyTheRegister : Prop :=
  ∀ (s : State) (v : Byte),
    RegMeans 0x80 (v.setWidth 16) (.set8A v) ∧
    exec (.set8A v) s = .next { s with rf := { s.rf with a := v }, resp := .done } ∧
    RegMeans 0x81 (v.setWidth 16) (.set8B v) ∧
    exec (.set8B v) s = .next { s with rf := { s.rf with b := v }, resp := .done } ∧
    RegMeans 0x82 (v.setWidth 16) (.set8C v) ∧
    exec (.set8C v) s = .next { s with rf := { s.rf with c := v }, resp := .done } ∧
    RegMeans 0x83 (v.setWidth 16) (.set8D v) ∧
    exec (.set8D v) s = .next { s with rf := { s.rf with d := v }, resp := .done } ∧
    RegMeans 0x84 (v.setWidth 16) (.set8E v) ∧
    exec (.set8E v) s = .next { s with rf := { s.rf with e := v }, resp := .done } ∧
    RegMeans 0x85 (v.setWidth 16) (.set8H v) ∧
    exec (.set8H v) s = .next { s with rf := { s.rf with h := v }, resp := .done } ∧
    RegMeans 0x86 (v.setWidth 16) (.set8L v) ∧
    exec (.set8L v) s = .next { s with rf := { s.rf with l := v }, resp := .done }

/-- GET16 completes with the composite: the named high half above the low half, the packed flags below a. Cites R130, R134, R136, R138, R140. -/
def Obligations.Get16ReturnsTheView : Prop :=
  ∀ s : State,
    s.rf.packFlags = BitVec.ofNat 8 (s.rf.zf.toNat * 128 + s.rf.nf.toNat * 64 + s.rf.hf.toNat * 32 + s.rf.cf.toNat * 16) ∧
    RegMeans 0x10 0 .get16Af ∧
    exec .get16Af s = .next { s with resp := .word (BitVec.ofNat 16 (s.rf.a.toNat * 256 + s.rf.zf.toNat * 128 +
      s.rf.nf.toNat * 64 + s.rf.hf.toNat * 32 + s.rf.cf.toNat * 16)) } ∧
    RegMeans 0x11 0 .get16Bc ∧ exec .get16Bc s = .next { s with resp := .word (BitVec.ofNat 16 (s.rf.b.toNat * 256 + s.rf.c.toNat)) } ∧
    RegMeans 0x12 0 .get16De ∧ exec .get16De s = .next { s with resp := .word (BitVec.ofNat 16 (s.rf.d.toNat * 256 + s.rf.e.toNat)) } ∧
    RegMeans 0x13 0 .get16Hl ∧ exec .get16Hl s = .next { s with resp := .word (BitVec.ofNat 16 (s.rf.h.toNat * 256 + s.rf.l.toNat)) } ∧
    RegMeans 0x14 0 .get16Sp ∧ exec .get16Sp s = .next { s with resp := .word s.rf.sp } ∧
    RegMeans 0x15 0 .get16Pc ∧ exec .get16Pc s = .next { s with resp := .word s.rf.pc }

/-- SET16 af writes a and the four flags from bits 7 to 4; SET16 of a pair writes its two halves. Cites R135, R137. -/
def Obligations.Set16SplitsTheValue : Prop :=
  ∀ (s : State) (v : Word),
    RegMeans 0x90 v (.set16Af v) ∧ RegMeans 0x91 v (.set16Bc v) ∧ RegMeans 0x92 v (.set16De v) ∧ RegMeans 0x93 v (.set16Hl v) ∧
    (∃ t, exec (.set16Af v) s = .next t ∧
      t = { s with
        rf := { s.rf with a := BitVec.ofNat 8 (v.toNat / 256), zf := v.getLsbD 7, nf := v.getLsbD 6, hf := v.getLsbD 5, cf := v.getLsbD 4 }
        resp := .done } ∧
      exec .get16Af t = .next { t with resp := .word (BitVec.ofNat 16 (v.toNat / 16 * 16)) }) ∧
    (∃ t, exec (.set16Bc v) s = .next t ∧ t = { s with rf := { s.rf with b := BitVec.ofNat 8 (v.toNat / 256), c := BitVec.ofNat 8 (v.toNat % 256) }, resp := .done } ∧
      exec .get16Bc t = .next { t with resp := .word v }) ∧
    (∃ t, exec (.set16De v) s = .next t ∧ t = { s with rf := { s.rf with d := BitVec.ofNat 8 (v.toNat / 256), e := BitVec.ofNat 8 (v.toNat % 256) }, resp := .done } ∧
      exec .get16De t = .next { t with resp := .word v }) ∧
    (∃ t, exec (.set16Hl v) s = .next t ∧ t = { s with rf := { s.rf with h := BitVec.ofNat 8 (v.toNat / 256), l := BitVec.ofNat 8 (v.toNat % 256) }, resp := .done } ∧
      exec .get16Hl t = .next { t with resp := .word v })

/-- SET16 sp and pc store any value; GETF and SETF read and write one flag (the spec's own decisions D25, D26). Cites 40_register_file.md, sections 3 and 4, 92_eei_decisions.md D25 and D26. -/
def Obligations.SpPcAndSingleFlagPorts : Prop :=
  ∀ (s : State) (v : Word) (b : Bool),
    RegMeans 0x94 v (.set16Sp v) ∧ exec (.set16Sp v) s = .next { s with rf := { s.rf with sp := v }, resp := .done } ∧
    RegMeans 0x95 v (.set16Pc v) ∧ exec (.set16Pc v) s = .next { s with rf := { s.rf with pc := v }, resp := .done } ∧
    RegMeans 0x20 0 .getfZ ∧ exec .getfZ s = .next { s with resp := .flag s.rf.zf } ∧
    RegMeans 0xA0 ((BitVec.ofBool b).setWidth 16) (.setfZ b) ∧
    exec (.setfZ b) s = .next { s with rf := { s.rf with zf := b }, resp := .done } ∧
    RegMeans 0x21 0 .getfN ∧ exec .getfN s = .next { s with resp := .flag s.rf.nf } ∧
    RegMeans 0xA1 ((BitVec.ofBool b).setWidth 16) (.setfN b) ∧
    exec (.setfN b) s = .next { s with rf := { s.rf with nf := b }, resp := .done } ∧
    RegMeans 0x22 0 .getfH ∧ exec .getfH s = .next { s with resp := .flag s.rf.hf } ∧
    RegMeans 0xA2 ((BitVec.ofBool b).setWidth 16) (.setfH b) ∧
    exec (.setfH b) s = .next { s with rf := { s.rf with hf := b }, resp := .done } ∧
    RegMeans 0x23 0 .getfC ∧ exec .getfC s = .next { s with resp := .flag s.rf.cf } ∧
    RegMeans 0xA3 ((BitVec.ofBool b).setWidth 16) (.setfC b) ∧
    exec (.setfC b) s = .next { s with rf := { s.rf with cf := b }, resp := .done }

/-- A SET8 of a half is seen by the next GET16 of its pair, and a SET16 by the next GET8 of either half and each GETF. Cites R145. -/
def Obligations.CompositesAreViewsOfTheirHalves : Prop :=
  ∀ (s : State) (v : Byte) (w : Word),
    (∃ t, exec (.set8A v) s = .next t ∧ exec .get16Af t = .next { t with resp := .word (BitVec.ofNat 16 (v.toNat * 256 + s.rf.packFlags.toNat)) }) ∧
    (∃ t, exec (.set8B v) s = .next t ∧ exec .get16Bc t = .next { t with resp := .word (BitVec.ofNat 16 (v.toNat * 256 + s.rf.c.toNat)) }) ∧
    (∃ t, exec (.set8C v) s = .next t ∧ exec .get16Bc t = .next { t with resp := .word (BitVec.ofNat 16 (s.rf.b.toNat * 256 + v.toNat)) }) ∧
    (∃ t, exec (.set8D v) s = .next t ∧ exec .get16De t = .next { t with resp := .word (BitVec.ofNat 16 (v.toNat * 256 + s.rf.e.toNat)) }) ∧
    (∃ t, exec (.set8E v) s = .next t ∧ exec .get16De t = .next { t with resp := .word (BitVec.ofNat 16 (s.rf.d.toNat * 256 + v.toNat)) }) ∧
    (∃ t, exec (.set8H v) s = .next t ∧ exec .get16Hl t = .next { t with resp := .word (BitVec.ofNat 16 (v.toNat * 256 + s.rf.l.toNat)) }) ∧
    (∃ t, exec (.set8L v) s = .next t ∧ exec .get16Hl t = .next { t with resp := .word (BitVec.ofNat 16 (s.rf.h.toNat * 256 + v.toNat)) }) ∧
    (∃ t, exec (.set16Bc w) s = .next t ∧
      exec .get8B t = .next { t with resp := .byte (BitVec.ofNat 8 (w.toNat / 256)) } ∧
      exec .get8C t = .next { t with resp := .byte (BitVec.ofNat 8 (w.toNat % 256)) }) ∧
    (∃ t, exec (.set16De w) s = .next t ∧
      exec .get8D t = .next { t with resp := .byte (BitVec.ofNat 8 (w.toNat / 256)) } ∧
      exec .get8E t = .next { t with resp := .byte (BitVec.ofNat 8 (w.toNat % 256)) }) ∧
    (∃ t, exec (.set16Hl w) s = .next t ∧
      exec .get8H t = .next { t with resp := .byte (BitVec.ofNat 8 (w.toNat / 256)) } ∧
      exec .get8L t = .next { t with resp := .byte (BitVec.ofNat 8 (w.toNat % 256)) }) ∧
    (∃ t, exec (.set16Af w) s = .next t ∧ exec .get8A t = .next { t with resp := .byte (BitVec.ofNat 8 (w.toNat / 256)) } ∧
      exec .getfZ t = .next { t with resp := .flag (w.getLsbD 7) } ∧ exec .getfN t = .next { t with resp := .flag (w.getLsbD 6) } ∧
      exec .getfH t = .next { t with resp := .flag (w.getLsbD 5) } ∧ exec .getfC t = .next { t with resp := .flag (w.getLsbD 4) } ∧
      exec .get16Af t = .next { t with resp := .word (BitVec.ofNat 16 (w.toNat / 16 * 16)) })

/-- No register port reads or writes memory-map state, and no other request reads or writes the register file. Cites R144. -/
def Obligations.RegisterFileAndMemoryMapAreSeparate : Prop :=
  ∀ (i : Instr) (s : State),
    (i.isReg = true → ∀ mm, exec i { s with mm := mm } = mapNext (fun t => { t with mm := mm }) (exec i s)) ∧
    (i.isReg = false → ∀ rf, exec i { s with rf := rf } = mapNext (fun t => { t with rf := rf }) (exec i s))

/-- No byte read, word read, controller read or GET changes any state of the spec. Cites 20_memory.md, section 3. -/
def Obligations.ReadsHaveNoSideEffects : Prop :=
  ∀ (i : Instr) (s t : State), i.isRead = true → exec i s = .next t →
    t = { s with draws := t.draws, resp := t.resp }

/-- Issuing the same byte write twice in a row leaves the same state as issuing it once. Cites 20_memory.md, section 3. -/
def Obligations.ByteWritesAreIdempotent : Prop :=
  ∀ (i : Instr) (s t : State), i.isByteWrite = true → exec i s = .next t → exec i t = .next t

/-- Only loadROM changes the active controller's ROM or kind, or installs a controller. Cites 10_state.md, sections 3 and 6, 42_mbc_nobanking_linear.md, section 1. -/
def Obligations.RomAndVariantChangeOnlyAtALoad : Prop :=
  ∀ (i : Instr) (s t : State), i.isLoadrom = false → exec i s = .next t →
    t.mm.cart.map Controller.variant = s.mm.cart.map Controller.variant ∧
    t.mm.cart.map Controller.romImage = s.mm.cart.map Controller.romImage

/-- Once a controller exists no request but RESET and LOADROM reads or writes staging or xram. Cites 10_state.md, section 3, 92_eei_decisions.md D6 and D9. -/
def Obligations.StagingAndXramAreOutOfReachOnceLoaded : Prop :=
  ∀ (i : Instr) (s : State) (c : Controller) (x y : Memory), s.mm.cart = some c → i.isLoadrom = false → i ≠ .reset →
    exec i { s with mm := { s.mm with staging := x, xram := y } } =
      mapNext (fun t => { t with mm := { t.mm with staging := x, xram := y } }) (exec i s)

/-- RESET clears the buffers and ie, sets the I/O table, and leaves staging, cartridge, registers alone (D8, D23, D24). Cites 41_memory_map.md, section 6, 92_eei_decisions.md D8, D23 and D24. -/
def Obligations.ResetSetsThePowerOnValues : Prop :=
  ∀ s : State, ∃ t, exec .reset s = .next t ∧ t = { s with mm := t.mm, resp := .done } ∧
    t.mm.cart = s.mm.cart ∧ t.mm.staging = s.mm.staging ∧ peek t .ie = 0x00 ∧
    (∀ i, peek t (.buf .vram i) = 0 ∧ peek t (.buf .xram i) = 0 ∧ peek t (.buf .wram i) = 0 ∧ peek t (.buf .oam i) = 0 ∧
      peek t (.buf .hram i) = 0) ∧
    (∀ i, peek t (.buf .io i) =
      if i = 0x10 then 0x80 else if i = 0x11 then 0xBF else if i = 0x12 then 0xF3 else if i = 0x14 then 0xBF
      else if i = 0x16 then 0x3F else if i = 0x19 then 0xBF else if i = 0x1A then 0x7F else if i = 0x1B then 0xFF
      else if i = 0x1C then 0x9F else if i = 0x1E then 0xBF else if i = 0x20 then 0xFF else if i = 0x23 then 0xBF
      else if i = 0x24 then 0x77 else if i = 0x25 then 0xF3 else if i = 0x26 then 0xF1 else if i = 0x40 then 0x91
      else if i = 0x47 then 0xFC else if i = 0x48 then 0xFF else if i = 0x49 then 0xFF else 0x00)

/-- LOADROM builds the variant of the type code, warns of an unrecognised one, and is refused only where EXTENDED_MBC says. Cites 41_memory_map.md, section 6, 60_exceptions.md, section 1, 92_eei_decisions.md D15, D22 and D29. -/
def Obligations.LoadRomSelectsTheVariantByCode : Prop :=
  ∀ (s : State) (image : List Byte) (code : Byte) (extended : Prop) (var : Variant) (known : Prop),
    (extended ↔ (0x05 ≤ code.toNat ∧ code.toNat ≤ 0x06) ∨ (0x0F ≤ code.toNat ∧ code.toNat ≤ 0x13) ∨
      (0x19 ≤ code.toNat ∧ code.toNat ≤ 0x1E)) →
    (known ↔ code.toNat ≤ 0x03 ∨ extended) →
    var = (if 0x01 ≤ code.toNat ∧ code.toNat ≤ 0x03 then .linear
      else if 0x05 ≤ code.toNat ∧ code.toNat ≤ 0x06 then .mbc2
      else if 0x0F ≤ code.toNat ∧ code.toNat ≤ 0x13 then .mbc3
      else if 0x19 ≤ code.toNat ∧ code.toNat ≤ 0x1E then .mbc5 else .noBanking) →
    (extended → s.params.extendedMbc = .refuse → exec (.loadrom image code) s = .refused (.unmodelledVariant code)) ∧
    (¬ extended ∨ s.params.extendedMbc = .gk → ∃ t, exec (.loadrom image code) s = .next t ∧
      t.mm.cart.map Controller.variant = some var ∧ (known → t.resp = .loaded none) ∧ (¬ known → t.resp = .loaded (some code)))

/-- LOADROM zero-fills staging, copies the first 0x8000 image bytes, and changes nothing else but the controller (D7, D24). Cites 41_memory_map.md, section 6, 92_eei_decisions.md D7 and D24. -/
def Obligations.LoadRomStagesTheImageAndTouchesNothingElse : Prop :=
  ∀ (s t : State) (image : List Byte) (code : Byte), exec (.loadrom image code) s = .next t →
    t = { s with mm := t.mm, resp := t.resp } ∧
    (∀ i, peek t (.buf .staging i) = if i < 0x8000 then image.getD i 0x00 else 0x00) ∧
    (∀ b i, b ≠ .staging → peek t (.buf b i) = peek s (.buf b i)) ∧ peek t .ie = peek s .ie

/-- The controller LOADROM builds has the construction register values, the image as ROM and CART_RAM_INIT as RAM. Cites 41_memory_map.md, section 6, 10_state.md, section 3, 92_eei_decisions.md D9, D10, D11 and D21. -/
def Obligations.LoadRomBuildsAFreshController : Prop :=
  ∀ (s t : State) (image : List Byte) (code : Byte), exec (.loadrom image code) s = .next t →
    ∃ k, t.mm.cart = some k ∧ ∀ init, init = s.params.ramInit → match k with
      | .noBanking c =>
        (∀ i, i < 0x8000 → peek t (.cartRom i) = image.getD i 0x00) ∧
        ∀ i, i < 0x2000 → Memory.get zeroCell c.ram i = Memory.get zeroCell init.noBanking i
      | .linear c =>
        c.rom.len = image.length ∧ (∀ i, peek t (.cartRom i) = image.getD i 0x00) ∧
        c.romBankSelect = 1 ∧ c.ramBankSelect = 0 ∧ c.ramEnabled = false ∧ c.bankingMode = 0 ∧
        ∀ i, i < 0x8000 → Memory.get zeroCell c.ram i = Memory.get zeroCell init.linear i
      | .mbc2 c =>
        c.rom.len = image.length ∧ (∀ i, peek t (.cartRom i) = image.getD i 0x00) ∧ c.romBank = 1 ∧ c.ramEnabled = false ∧
        ∀ i, i < 0x200 → (Memory.get zeroCell c.ram i).toNat = (Memory.get zeroCell init.mbc2 i).toNat % 16
      | .mbc3 c =>
        c.rom.len = image.length ∧ (∀ i, peek t (.cartRom i) = image.getD i 0x00) ∧
        c.romBank = 1 ∧ c.select = 0 ∧ c.ramEnabled = false ∧
        ∀ i, i < 0x8000 → Memory.get zeroCell c.ram i = Memory.get zeroCell init.mbc3 i
      | .mbc5 c =>
        c.rom.len = image.length ∧ (∀ i, peek t (.cartRom i) = image.getD i 0x00) ∧
        c.romBankLo = 1 ∧ c.romBankHi = 0 ∧ c.ramBank = 0 ∧ c.ramEnabled = false ∧
        ∀ i, i < 0x20000 → Memory.get zeroCell c.ram i = Memory.get zeroCell init.mbc5 i

/-- Nothing of the replaced controller can be told after a LOADROM, nor, by the zero-fill of the spec's own decision D7 (log 16), of the old staging bytes. Cites 10_state.md, section 7, 41_memory_map.md, section 6, 92_eei_decisions.md D7. -/
def Obligations.LoadRomForgetsTheOldController : Prop :=
  ∀ (s : State) (image : List Byte) (code : Byte) (old : Option Controller) (m : Memory),
    exec (.loadrom image code) { s with mm := { s.mm with cart := old, staging := m } } = exec (.loadrom image code) s

/-- A constructed instance has REG_INIT, zeroed buffers, the I/O power-on values and no controller. Cites 70_reset_and_hazards.md, section 1, 10_state.md, section 8. -/
def Obligations.ConstructionState : Prop :=
  ∀ (p : Params) (regs : RegFile) (s : State), s = State.construct p regs →
    s.rf = regs ∧ s.mm.cart = none ∧ peek s .ie = 0x00 ∧
    (∀ b i, b ≠ .io → peek s (.buf b i) = 0x00) ∧ peek s (.buf .io 0x40) = 0x91 ∧ peek s (.buf .io 0x26) = 0xF1 ∧
    exec .reset s = .next { s with resp := .done }

/-- With INDEX_VIOLATION = degrade no request raises, in any state. Cites R320. -/
def Obligations.NoFaultInTheProductionBuild : Prop :=
  ∀ (s : State) (f : Fault), s.params.indexViolation = .degrade → step s ≠ .fault f

/-- A fault is always InternalIndexViolation, of a bank-0 read beyond a banked controller's short image, in the debug build. Cites 60_exceptions.md, section 1, 92_eei_decisions.md D13. -/
def Obligations.TheOnlyFaultIsAShortImageInTheDebugBuild : Prop :=
  ∀ (s : State) (f : Fault), step s = .fault f →
    s.params.indexViolation = .fault ∧ ∃ (a : Addr) (c : Controller), f = .internalIndexViolation a ∧ a.toNat ≤ 0x3FFF ∧
      s.mm.cart = some c ∧ c.variant ≠ .noBanking ∧ c.romImage.len ≤ a.toNat

/-- A step is refused only as ReservedRequest of a reserved word or as UnmodelledVariant while EXTENDED_MBC = refuse. Cites R336. -/
def Obligations.RefusalsAreTheTwoTheSpecNames : Prop :=
  ∀ (s : State) (e : Refusal), step s = .refused e →
    ∃ (r : Request) (rest : List Request), s.pending = r :: rest ∧
      ((ReservedWord r.word ∧ e = .reservedRequest r.word) ∨
       (r.word = .ctl 0x01 ∧ s.params.extendedMbc = .refuse ∧ isExtended (selectVariant (loByte r.data)).1 = true ∧
        e = .unmodelledVariant (loByte r.data)))

/-- A constructed instance, State.reset among them, meets the invariant (its canonical form of the buffers is the model's own choice, log 21). Cites 70_reset_and_hazards.md, section 1, 10_state.md, section 3. -/
def Obligations.ConstructedInstancesMeetTheInvariant : Prop :=
  State.reset.Inv ∧ ∀ (p : Params) (regs : RegFile), (State.construct p regs).Inv

/-- Every step keeps: buffers canonical (the model's choice, log 21), OAM's rest zero, legal bank registers (MBC2, MBC3: log 19), staging zero until a load. Cites 10_state.md, sections 3 and 4, 41_memory_map.md, sections 1 and 5, 42_mbc_nobanking_linear.md, section 4, 43_mbc_extended.md, sections 2 and 3. -/
def Obligations.EveryStepKeepsTheInvariant : Prop :=
  ∀ s t : State, s.Inv → step s = .next t → t.Inv

/-- Every step keeps romBankSelect's low field from 0, and its high field at 0 in mode 1. Cites 42_mbc_nobanking_linear.md, section 4. -/
def Obligations.LinearRegistersStayLegal : Prop :=
  ∀ s t : State, s.LinearLegal → step s = .next t → t.LinearLegal

/-- OAM bytes 0xA0 to 0xFF stay 0x00: no step changes one that is 0x00. Cites 10_state.md, section 3. -/
def Obligations.UnreachableOamBytesStayZero : Prop :=
  ∀ (s t : State) (i : Nat), 0xA0 ≤ i → i ≤ 0xFF → peek s (.buf .oam i) = 0x00 → step s = .next t →
    peek t (.buf .oam i) = 0x00

/-- The parameters of an instance stay as it was built; a step takes one request off the list and adds none. Cites 00_scope.md, section 3. -/
def Obligations.NoRequestChangesTheParameters : Prop :=
  ∀ s t : State, step s = .next t → t.params = s.params ∧ t.pending = s.pending.tail ∧ s.draws ≤ t.draws
end

