-- ==== Sys2Proof/Laws/Decode.lean ====
section
/-! SUPPORT. What the decoder reads back from the words the encoder builds (30_encoding.md R101 to R106). -/

namespace Sys2Proof

/-! ## Bit fields -/

theorem loByte_setWidth (v : Byte) : loByte (v.setWidth 16) = v := by
  apply BitVec.eq_of_getLsbD_eq
  intro i hi
  simp only [loByte, BitVec.getLsbD_extractLsb', BitVec.getLsbD_setWidth]
  simp [hi]
  intro _; omega

theorem getLsbD_ofBool_setWidth (b : Bool) : ((BitVec.ofBool b).setWidth 16).getLsbD 0 = b := by
  cases b <;> rfl

theorem getLsbD_ofNat_div (w n i : Nat) (h : i < w) : (BitVec.ofNat w n).getLsbD i = decide (n / 2 ^ i % 2 = 1) := by
  rw [BitVec.getLsbD_ofNat, Nat.testBit_eq_decide_div_mod_eq]
  simp only [h, decide_true, Bool.true_and]

theorem toNat_low (w n k : Nat) (h : k ≤ w) : ((BitVec.ofNat w n).extractLsb' 0 k).toNat = n % 2 ^ k := by
  simp only [BitVec.extractLsb'_toNat, BitVec.toNat_ofNat, Nat.shiftRight_zero]
  exact Nat.mod_mod_of_dvd _ (Nat.pow_dvd_pow 2 h)

theorem busWord_fields (w d : Bool) (a : Addr) :
    ∃ q : BitVec 18, busWord w d a = .bus q ∧ q.getLsbD 17 = w ∧ q.getLsbD 16 = d ∧ q.extractLsb' 0 16 = a := by
  have ha := a.isLt
  refine ⟨_, rfl, ?_, ?_, ?_⟩
  · rw [getLsbD_ofNat_div _ _ _ (by decide)]
    cases w <;> cases d <;> simp <;> omega
  · rw [getLsbD_ofNat_div _ _ _ (by decide)]
    cases w <;> cases d <;> simp <;> omega
  · apply BitVec.eq_of_toNat_eq
    rw [toNat_low _ _ _ (by decide)]
    omega

theorem cartWord_fields (op : BitVec 2) (a : Addr) :
    ∃ c : BitVec 18, cartWord op a = .cart c ∧ c.getLsbD 17 = decide (2 ≤ op.toNat) ∧
      c.getLsbD 16 = decide (op.toNat % 2 = 1) ∧ c.extractLsb' 0 16 = a ∧ c.extractLsb' 0 13 = a.setWidth 13 := by
  have ha := a.isLt
  have ho := op.isLt
  refine ⟨_, rfl, ?_, ?_, ?_, ?_⟩
  · rw [getLsbD_ofNat_div _ _ _ (by decide)]
    exact decide_eq_decide.mpr (by omega)
  · rw [getLsbD_ofNat_div _ _ _ (by decide)]
    exact decide_eq_decide.mpr (by omega)
  · apply BitVec.eq_of_toNat_eq
    rw [toNat_low _ _ _ (by decide)]
    omega
  · apply BitVec.eq_of_toNat_eq
    rw [toNat_low _ _ _ (by decide), BitVec.toNat_setWidth]
    omega

/-! ## Formats -/

/-- A BUS word built from its fields decodes by its fields (R101). -/
theorem decode_busWord (var : Variant) (w d : Bool) (a : Addr) (data : Word) (image : List Byte) :
    decode var ⟨busWord w d a, data, image⟩ =
      .ok (match w, d with
        | false, false => decodeRead a
        | false, true => decodeWrite a (loByte data)
        | true, false => .rdw a
        | true, true => .wrw a data) := by
  obtain ⟨q, hq, h17, h16, ha⟩ := busWord_fields w d a
  cases w <;> cases d <;> simp only [decode, hq, decodeBus, h17, h16, ha]

/-- A CART read or write word decodes by the variant's rows (R102, R110). -/
theorem decode_cartRead (var : Variant) (a : Addr) (data : Word) (image : List Byte) :
    decode var ⟨cartWord 0 a, data, image⟩ = .ok (decodeCartRead var a) := by
  obtain ⟨c, hc, h17, h16, ha, _⟩ := cartWord_fields 0 a
  simp only [decode, hc, decodeCart, h17, h16, ha]
  rfl

theorem decode_cartWrite (var : Variant) (a : Addr) (data : Word) (image : List Byte) :
    decode var ⟨cartWord 1 a, data, image⟩ = .ok (decodeCartWrite var a (loByte data)) := by
  obtain ⟨c, hc, h17, h16, ha, _⟩ := cartWord_fields 1 a
  simp only [decode, hc, decodeCart, h17, h16, ha]
  rfl

theorem offset_small (o : RamOffset) : (o.setWidth 16 : Addr).toNat < 0x2000 := by
  have := o.isLt
  simp only [BitVec.toNat_setWidth]
  omega

theorem offset_back (o : RamOffset) : (o.setWidth 16 : Addr).setWidth 13 = o := by
  apply BitVec.eq_of_toNat_eq
  have := o.isLt
  simp only [BitVec.toNat_setWidth]
  omega

/-- A CART RAM word with a 13-bit offset decodes by the variant's rows (R102, R103, R110). -/
theorem decode_cartReadRam (var : Variant) (o : RamOffset) (data : Word) (image : List Byte) :
    decode var ⟨cartWord 2 (o.setWidth 16), data, image⟩ = .ok (decodeCartReadRam var o) := by
  obtain ⟨c, hc, h17, h16, ha, ho⟩ := cartWord_fields 2 (o.setWidth 16)
  simp only [decode, hc, decodeCart, h17, h16, ha, ho, offset_back]
  exact if_pos (offset_small o)

theorem decode_cartWriteRam (var : Variant) (o : RamOffset) (data : Word) (image : List Byte) :
    decode var ⟨cartWord 3 (o.setWidth 16), data, image⟩ = .ok (decodeCartWriteRam var o (loByte data)) := by
  obtain ⟨c, hc, h17, h16, ha, ho⟩ := cartWord_fields 3 (o.setWidth 16)
  simp only [decode, hc, decodeCart, h17, h16, ha, ho, offset_back]
  exact if_pos (offset_small o)

/-! ## Ranges -/

theorem inRange_iff {a : Addr} {lo hi : Nat} : inRange a lo hi = true ↔ lo ≤ a.toNat ∧ a.toNat ≤ hi := by
  simp [inRange]

/-- The owner of an address, from its range (41_memory_map.md R170). -/
theorem owner_cases (a : Addr) :
    (owner a = .cartRom ∧ a.toNat ≤ 0x7FFF) ∨ (owner a = .vram ∧ 0x8000 ≤ a.toNat ∧ a.toNat ≤ 0x9FFF) ∨
    (owner a = .cartRam ∧ 0xA000 ≤ a.toNat ∧ a.toNat ≤ 0xBFFF) ∨ (owner a = .wram ∧ 0xC000 ≤ a.toNat ∧ a.toNat ≤ 0xDFFF) ∨
    (owner a = .echo ∧ 0xE000 ≤ a.toNat ∧ a.toNat ≤ 0xFDFF) ∨ (owner a = .oam ∧ 0xFE00 ≤ a.toNat ∧ a.toNat ≤ 0xFE9F) ∨
    (owner a = .unmapped ∧ 0xFEA0 ≤ a.toNat ∧ a.toNat ≤ 0xFEFF) ∨ (owner a = .io ∧ 0xFF00 ≤ a.toNat ∧ a.toNat ≤ 0xFF7F) ∨
    (owner a = .hram ∧ 0xFF80 ≤ a.toNat ∧ a.toNat ≤ 0xFFFE) ∨ (owner a = .ie ∧ a.toNat = 0xFFFF) := by
  have := a.isLt
  unfold owner
  split_ifs <;> simp <;> omega

theorem owner_cartRom (a : Addr) (h : inRange a 0x0000 0x7FFF = true) : owner a = .cartRom := by
  rw [inRange_iff] at h
  rcases owner_cases a with k | k | k | k | k | k | k | k | k | k <;> first | exact k.1 | omega

theorem owner_vram (a : Addr) (h : inRange a 0x8000 0x9FFF = true) : owner a = .vram := by
  rw [inRange_iff] at h
  rcases owner_cases a with k | k | k | k | k | k | k | k | k | k <;> first | exact k.1 | omega

theorem owner_cartRam (a : Addr) (h : inRange a 0xA000 0xBFFF = true) : owner a = .cartRam := by
  rw [inRange_iff] at h
  rcases owner_cases a with k | k | k | k | k | k | k | k | k | k <;> first | exact k.1 | omega

theorem owner_wram (a : Addr) (h : inRange a 0xC000 0xDFFF = true) : owner a = .wram := by
  rw [inRange_iff] at h
  rcases owner_cases a with k | k | k | k | k | k | k | k | k | k <;> first | exact k.1 | omega

theorem owner_echo (a : Addr) (h : inRange a 0xE000 0xFDFF = true) : owner a = .echo := by
  rw [inRange_iff] at h
  rcases owner_cases a with k | k | k | k | k | k | k | k | k | k <;> first | exact k.1 | omega

theorem owner_oam (a : Addr) (h : inRange a 0xFE00 0xFE9F = true) : owner a = .oam := by
  rw [inRange_iff] at h
  rcases owner_cases a with k | k | k | k | k | k | k | k | k | k <;> first | exact k.1 | omega

theorem owner_unmapped (a : Addr) (h : inRange a 0xFEA0 0xFEFF = true) : owner a = .unmapped := by
  rw [inRange_iff] at h
  rcases owner_cases a with k | k | k | k | k | k | k | k | k | k <;> first | exact k.1 | omega

theorem owner_io (a : Addr) (h : inRange a 0xFF00 0xFF7F = true) : owner a = .io := by
  rw [inRange_iff] at h
  rcases owner_cases a with k | k | k | k | k | k | k | k | k | k <;> first | exact k.1 | omega

theorem owner_hram (a : Addr) (h : inRange a 0xFF80 0xFFFE = true) : owner a = .hram := by
  rw [inRange_iff] at h
  rcases owner_cases a with k | k | k | k | k | k | k | k | k | k <;> first | exact k.1 | omega

theorem owner_ie (a : Addr) (h : inRange a 0xFFFF 0xFFFF = true) : owner a = .ie := by
  rw [inRange_iff] at h
  rcases owner_cases a with k | k | k | k | k | k | k | k | k | k <;> first | exact k.1 | omega

end Sys2Proof
end

