-- ==== Sys2Proof/Laws/Memory.lean ====
section
/-! SUPPORT. What the buffer operations of Machine/Ops.lean do: reads after writes, the canonical form kept by
every one of them, and the buffers a byte string and `CART_RAM_INIT` give. -/

namespace Sys2Proof.Machine

variable {w : Nat} {blank : Nat → BitVec w}

@[simp] theorem zeroCell_eq (i : Nat) : (zeroCell i : BitVec w) = 0 := rfl

@[simp] theorem Memory.get_nil (i : Nat) : Memory.get blank [] i = blank i := rfl

theorem Memory.get_drop (m : Cells w) (i j : Nat) :
    Memory.get blank (Memory.drop m i) j = if j = i then blank i else Memory.get blank m j := by
  induction m with
  | nil => by_cases h : j = i <;> simp [Memory.drop, h]
  | cons c rest ih =>
    obtain ⟨k, v⟩ := c
    simp only [Memory.drop] at ih ⊢
    by_cases hk : k = i <;> by_cases hj : j = k <;> by_cases hji : j = i <;> simp_all [Memory.get]

theorem Memory.mem_drop {m : Cells w} {i : Nat} {c : Nat × BitVec w} (h : c ∈ Memory.drop m i) : c ∈ m ∧ c.1 ≠ i := by
  simpa [Memory.drop] using h

theorem Memory.get_insert (m : Cells w) (i j : Nat) (v : BitVec w) (h : ∀ c ∈ m, c.1 ≠ i) :
    Memory.get blank (Memory.insert m i v) j = if j = i then v else Memory.get blank m j := by
  induction m with
  | nil => simp [Memory.insert, Memory.get]
  | cons c rest ih =>
    obtain ⟨k, x⟩ := c
    have hk : k ≠ i := h (k, x) (by simp)
    have ih := ih fun c hc => h c (by simp [hc])
    simp only [Memory.insert]
    split
    · simp [Memory.get]
    · by_cases hj : j = k
      · subst hj; simp [Memory.get, hk]
      · simp [Memory.get, hj, ih]

/-- A read after a write: the value written, or what stood there. -/
@[simp] theorem Memory.get_set (m : Cells w) (i j : Nat) (v : BitVec w) :
    Memory.get blank (Memory.set blank m i v) j = if j = i then v else Memory.get blank m j := by
  unfold Memory.set
  split
  · simp [Memory.get_drop, *]
  · rw [Memory.get_insert _ _ _ _ fun c hc => (Memory.mem_drop hc).2, Memory.get_drop]
    by_cases hj : j = i <;> simp [hj]

theorem Memory.drop_drop (m : Cells w) (i : Nat) : Memory.drop (Memory.drop m i) i = Memory.drop m i := by
  simp [Memory.drop]

theorem Memory.drop_insert (m : Cells w) (i : Nat) (v : BitVec w) :
    Memory.drop (Memory.insert m i v) i = Memory.drop m i := by
  induction m with
  | nil => simp [Memory.insert, Memory.drop]
  | cons c rest ih =>
    obtain ⟨k, x⟩ := c
    simp only [Memory.insert]
    split
    · simp [Memory.drop]
    · simp only [Memory.drop, List.filter_cons] at ih ⊢
      rw [ih]

/-- A second write of the same index replaces the first. -/
@[simp] theorem Memory.set_set (m : Cells w) (i : Nat) (u v : BitVec w) :
    Memory.set blank (Memory.set blank m i u) i v = Memory.set blank m i v := by
  have h : Memory.drop (Memory.set blank m i u) i = Memory.drop m i := by
    unfold Memory.set
    split
    · exact Memory.drop_drop m i
    · rw [Memory.drop_insert, Memory.drop_drop]
  rw [Memory.set, h]; rfl

/-! ## The canonical form -/

theorem Memory.wfFrom_mono {size lo lo' : Nat} {m : Cells w} (h : Memory.wfFrom blank size lo m = true) (hl : lo' ≤ lo) :
    Memory.wfFrom blank size lo' m = true := by
  cases m with
  | nil => rfl
  | cons c rest =>
    obtain ⟨k, v⟩ := c
    simp only [Memory.wfFrom, Bool.and_eq_true, decide_eq_true_eq] at h ⊢
    exact ⟨⟨⟨by omega, h.1.1.2⟩, h.1.2⟩, h.2⟩

theorem Memory.wfFrom_size {size size' lo : Nat} {m : Cells w} (h : Memory.wfFrom blank size lo m = true) (hs : size ≤ size') :
    Memory.wfFrom blank size' lo m = true := by
  induction m generalizing lo with
  | nil => rfl
  | cons c rest ih =>
    obtain ⟨k, v⟩ := c
    simp only [Memory.wfFrom, Bool.and_eq_true, decide_eq_true_eq] at h ⊢
    exact ⟨⟨⟨h.1.1.1, by omega⟩, h.1.2⟩, ih h.2⟩

theorem Memory.wfFrom_drop {size lo : Nat} {m : Cells w} (i : Nat) (h : Memory.wfFrom blank size lo m = true) :
    Memory.wfFrom blank size lo (Memory.drop m i) = true := by
  induction m generalizing lo with
  | nil => rfl
  | cons c rest ih =>
    obtain ⟨k, v⟩ := c
    simp only [Memory.wfFrom, Bool.and_eq_true, decide_eq_true_eq] at h
    simp only [Memory.drop, List.filter_cons]
    split
    · simp only [Memory.wfFrom, Bool.and_eq_true, decide_eq_true_eq]
      exact ⟨h.1, ih h.2⟩
    · exact Memory.wfFrom_mono (ih h.2) (by omega)

theorem Memory.wfFrom_insert {size lo i : Nat} {m : Cells w} {v : BitVec w} (h : Memory.wfFrom blank size lo m = true)
    (hm : ∀ c ∈ m, c.1 ≠ i) (hlo : lo ≤ i) (hi : i < size) (hv : v ≠ blank i) :
    Memory.wfFrom blank size lo (Memory.insert m i v) = true := by
  induction m generalizing lo with
  | nil => simp [Memory.insert, Memory.wfFrom, hlo, hi, hv]
  | cons c rest ih =>
    obtain ⟨k, x⟩ := c
    have hk : k ≠ i := hm (k, x) (by simp)
    simp only [Memory.wfFrom, Bool.and_eq_true, decide_eq_true_eq] at h
    simp only [Memory.insert]
    split
    · simp only [Memory.wfFrom, Bool.and_eq_true, decide_eq_true_eq]
      exact ⟨⟨⟨hlo, hi⟩, hv⟩, ⟨⟨by omega, h.1.1.2⟩, h.1.2⟩, h.2⟩
    · simp only [Memory.wfFrom, Bool.and_eq_true, decide_eq_true_eq]
      exact ⟨h.1, ih h.2 (fun c hc => hm c (by simp [hc])) (by omega)⟩

/-- A write keeps the canonical form. -/
theorem Memory.wf_set {size : Nat} {m : Cells w} {i : Nat} {v : BitVec w} (h : Memory.wf blank size m = true) (hi : i < size) :
    Memory.wf blank size (Memory.set blank m i v) = true := by
  unfold Memory.set Memory.wf
  split
  · exact Memory.wfFrom_drop i h
  · exact Memory.wfFrom_insert (Memory.wfFrom_drop i h) (fun c hc => (Memory.mem_drop hc).2) (Nat.zero_le _) hi ‹_›

@[simp] theorem Memory.wf_nil (size : Nat) : Memory.wf blank size [] = true := rfl

theorem Memory.wf_size {size size' : Nat} {m : Cells w} (h : Memory.wf blank size m = true) (hs : size ≤ size') :
    Memory.wf blank size' m = true := Memory.wfFrom_size h hs

/-- A byte at an index the canonical form does not list reads as unlisted. -/
theorem Memory.get_of_lt {size lo i : Nat} {m : Cells w} (h : Memory.wfFrom blank size lo m = true) (hi : i < lo ∨ size ≤ i) :
    Memory.get blank m i = blank i := by
  induction m generalizing lo with
  | nil => rfl
  | cons c rest ih =>
    obtain ⟨k, v⟩ := c
    simp only [Memory.wfFrom, Bool.and_eq_true, decide_eq_true_eq] at h
    have hik : i ≠ k := by omega
    simp only [Memory.get, hik, if_false]
    exact ih h.2 (by omega)

/-! ## Byte strings and initial contents -/

theorem Memory.wfFrom_ofBytes (k size : Nat) (l : List Byte) (h : k + l.length ≤ size) :
    Memory.wfFrom zeroCell size k (Memory.ofBytesFrom k l) = true := by
  induction l generalizing k with
  | nil => rfl
  | cons b rest ih =>
    simp only [List.length_cons] at h
    simp only [Memory.ofBytesFrom]
    split
    · exact Memory.wfFrom_mono (ih (k + 1) (by omega)) (by omega)
    · simp only [Memory.wfFrom, Bool.and_eq_true, decide_eq_true_eq]
      exact ⟨⟨⟨Nat.le_refl _, by omega⟩, by simpa using ‹¬b = 0›⟩, ih (k + 1) (by omega)⟩

theorem Memory.get_ofBytes (k i : Nat) (l : List Byte) :
    Memory.get zeroCell (Memory.ofBytesFrom k l) i = if k ≤ i then (l[i - k]?).getD 0 else 0 := by
  induction l generalizing k with
  | nil => simp [Memory.ofBytesFrom]
  | cons b rest ih =>
    have hstep : (if k + 1 ≤ i then (rest[i - (k + 1)]?).getD 0 else 0) =
        if i = k then (0 : Byte) else if k ≤ i then ((b :: rest)[i - k]?).getD 0 else 0 := by
      by_cases hik : i = k
      · subst hik; simp
      · by_cases hle : k ≤ i
        · have : i - k = (i - (k + 1)) + 1 := by omega
          simp [hik, hle, this, show k + 1 ≤ i by omega]
        · simp [hik, hle, show ¬ k + 1 ≤ i by omega]
    simp only [Memory.ofBytesFrom]
    split
    · rename_i hb
      rw [ih, hstep]
      by_cases hik : i = k
      · subst hik; simp [hb]
      · simp [hik]
    · simp only [Memory.get]
      rw [ih, hstep]
      by_cases hik : i = k
      · subst hik; simp
      · simp [hik]

/-- The RAM array of a fresh controller is in canonical form, whatever `CART_RAM_INIT` holds. -/
theorem Memory.wf_fresh {u : Nat} (f : BitVec u → BitVec w) (size : Nat) (init : Cells u) :
    Memory.wf zeroCell size (Memory.fresh f size init) = true := by
  unfold Memory.fresh
  induction init with
  | nil => rfl
  | cons c rest ih =>
    simp only [List.foldr_cons]
    split
    · exact Memory.wf_set ih ‹_›
    · exact ih

/-- A fresh controller's RAM cell holds `CART_RAM_INIT`'s. -/
theorem Memory.get_fresh {u : Nat} (f : BitVec u → BitVec w) (hf : f 0 = 0) (size : Nat) (init : Cells u) (i : Nat) :
    Memory.get zeroCell (Memory.fresh f size init) i = if i < size then f (Memory.get zeroCell init i) else 0 := by
  unfold Memory.fresh
  induction init with
  | nil =>
    by_cases h : i < size
    · rw [if_pos h]; exact hf.symm
    · rw [if_neg h]; rfl
  | cons c rest ih =>
    obtain ⟨k, v⟩ := c
    simp only [List.foldr_cons]
    split
    · rw [Memory.get_set, ih]
      by_cases hik : i = k
      · subst hik; simp_all [Memory.get]
      · simp [hik, Memory.get]
    · rw [ih]
      by_cases hik : i = k
      · subst hik; rw [if_neg ‹_›, if_neg ‹_›]
      · simp [hik, Memory.get]

end Sys2Proof.Machine
end

