-- ==== Sys2Proof/Laws/State.lean ====
section
/-! SUPPORT. One lemma for each field and each update of the state, and one for each update of the register file,
all true by definition, so that no later proof unfolds a record update. -/

namespace Sys2Proof.Machine

/-! ## State -/

@[simp] theorem State.withMm_rf (s : State) (newMm : MemoryMap) : (s.withMm newMm).rf = s.rf := rfl
@[simp] theorem State.withMm_mm (s : State) (newMm : MemoryMap) : (s.withMm newMm).mm = newMm := rfl
@[simp] theorem State.withMm_params (s : State) (newMm : MemoryMap) : (s.withMm newMm).params = s.params := rfl
@[simp] theorem State.withMm_draws (s : State) (newMm : MemoryMap) : (s.withMm newMm).draws = s.draws := rfl
@[simp] theorem State.withMm_pending (s : State) (newMm : MemoryMap) : (s.withMm newMm).pending = s.pending := rfl
@[simp] theorem State.withMm_resp (s : State) (newMm : MemoryMap) : (s.withMm newMm).resp = s.resp := rfl

@[simp] theorem State.withRf_rf (s : State) (newRf : RegFile) : (s.withRf newRf).rf = newRf := rfl
@[simp] theorem State.withRf_mm (s : State) (newRf : RegFile) : (s.withRf newRf).mm = s.mm := rfl
@[simp] theorem State.withRf_params (s : State) (newRf : RegFile) : (s.withRf newRf).params = s.params := rfl
@[simp] theorem State.withRf_draws (s : State) (newRf : RegFile) : (s.withRf newRf).draws = s.draws := rfl
@[simp] theorem State.withRf_pending (s : State) (newRf : RegFile) : (s.withRf newRf).pending = s.pending := rfl
@[simp] theorem State.withRf_resp (s : State) (newRf : RegFile) : (s.withRf newRf).resp = s.resp := rfl

@[simp] theorem State.respond_rf (s : State) (r : Response) : (s.respond r).rf = s.rf := rfl
@[simp] theorem State.respond_mm (s : State) (r : Response) : (s.respond r).mm = s.mm := rfl
@[simp] theorem State.respond_params (s : State) (r : Response) : (s.respond r).params = s.params := rfl
@[simp] theorem State.respond_draws (s : State) (r : Response) : (s.respond r).draws = s.draws := rfl
@[simp] theorem State.respond_pending (s : State) (r : Response) : (s.respond r).pending = s.pending := rfl
@[simp] theorem State.respond_resp (s : State) (r : Response) : (s.respond r).resp = r := rfl

@[simp] theorem State.withDraws_rf (s : State) (n : Nat) : (s.withDraws n).rf = s.rf := rfl
@[simp] theorem State.withDraws_mm (s : State) (n : Nat) : (s.withDraws n).mm = s.mm := rfl
@[simp] theorem State.withDraws_params (s : State) (n : Nat) : (s.withDraws n).params = s.params := rfl
@[simp] theorem State.withDraws_draws (s : State) (n : Nat) : (s.withDraws n).draws = n := rfl
@[simp] theorem State.withDraws_pending (s : State) (n : Nat) : (s.withDraws n).pending = s.pending := rfl
@[simp] theorem State.withDraws_resp (s : State) (n : Nat) : (s.withDraws n).resp = s.resp := rfl

@[simp] theorem State.withPending_rf (s : State) (p : List Request) : (s.withPending p).rf = s.rf := rfl
@[simp] theorem State.withPending_mm (s : State) (p : List Request) : (s.withPending p).mm = s.mm := rfl
@[simp] theorem State.withPending_params (s : State) (p : List Request) : (s.withPending p).params = s.params := rfl
@[simp] theorem State.withPending_draws (s : State) (p : List Request) : (s.withPending p).draws = s.draws := rfl
@[simp] theorem State.withPending_pending (s : State) (p : List Request) : (s.withPending p).pending = p := rfl
@[simp] theorem State.withPending_resp (s : State) (p : List Request) : (s.withPending p).resp = s.resp := rfl

@[simp] theorem State.withCtl_rf (s : State) (c : Controller) : (s.withCtl c).rf = s.rf := rfl
@[simp] theorem State.withCtl_mm (s : State) (c : Controller) : (s.withCtl c).mm = s.mm.withCtl c := rfl
@[simp] theorem State.withCtl_params (s : State) (c : Controller) : (s.withCtl c).params = s.params := rfl
@[simp] theorem State.withCtl_draws (s : State) (c : Controller) : (s.withCtl c).draws = s.draws := rfl
@[simp] theorem State.withCtl_pending (s : State) (c : Controller) : (s.withCtl c).pending = s.pending := rfl
@[simp] theorem State.withCtl_resp (s : State) (c : Controller) : (s.withCtl c).resp = s.resp := rfl

@[simp] theorem State.withDraws_self (s : State) : s.withDraws s.draws = s := rfl

@[simp] theorem State.withMm_self (s : State) : s.withMm s.mm = s := rfl

/-! ## The register file -/

@[simp] theorem RegFile.withReg8A_eq (r : RegFile) (v : Byte) : r.withReg8A v = { r with a := v } := rfl
@[simp] theorem RegFile.withReg8B_eq (r : RegFile) (v : Byte) : r.withReg8B v = { r with b := v } := rfl
@[simp] theorem RegFile.withReg8C_eq (r : RegFile) (v : Byte) : r.withReg8C v = { r with c := v } := rfl
@[simp] theorem RegFile.withReg8D_eq (r : RegFile) (v : Byte) : r.withReg8D v = { r with d := v } := rfl
@[simp] theorem RegFile.withReg8E_eq (r : RegFile) (v : Byte) : r.withReg8E v = { r with e := v } := rfl
@[simp] theorem RegFile.withReg8H_eq (r : RegFile) (v : Byte) : r.withReg8H v = { r with h := v } := rfl
@[simp] theorem RegFile.withReg8L_eq (r : RegFile) (v : Byte) : r.withReg8L v = { r with l := v } := rfl
@[simp] theorem RegFile.withBc_eq (r : RegFile) (v : Word) : r.withBc v = { r with b := hiByte v, c := loByte v } := rfl
@[simp] theorem RegFile.withDe_eq (r : RegFile) (v : Word) : r.withDe v = { r with d := hiByte v, e := loByte v } := rfl
@[simp] theorem RegFile.withHl_eq (r : RegFile) (v : Word) : r.withHl v = { r with h := hiByte v, l := loByte v } := rfl
@[simp] theorem RegFile.withAf_eq (r : RegFile) (v : Word) :
    r.withAf v = { r with a := hiByte v, zf := (loByte v).getLsbD 7, nf := (loByte v).getLsbD 6, hf := (loByte v).getLsbD 5, cf := (loByte v).getLsbD 4 } := rfl
@[simp] theorem RegFile.withSp_eq (r : RegFile) (v : Word) : r.withSp v = { r with sp := v } := rfl
@[simp] theorem RegFile.withPc_eq (r : RegFile) (v : Word) : r.withPc v = { r with pc := v } := rfl
@[simp] theorem RegFile.withFlagZ_eq (r : RegFile) (b : Bool) : r.withFlagZ b = { r with zf := b } := rfl
@[simp] theorem RegFile.withFlagN_eq (r : RegFile) (b : Bool) : r.withFlagN b = { r with nf := b } := rfl
@[simp] theorem RegFile.withFlagH_eq (r : RegFile) (b : Bool) : r.withFlagH b = { r with hf := b } := rfl
@[simp] theorem RegFile.withFlagC_eq (r : RegFile) (b : Bool) : r.withFlagC b = { r with cf := b } := rfl

/-! ## The memory map -/

@[simp] theorem MemoryMap.buf_withBuf (mm : MemoryMap) (b k : Buffer) (m : Memory) :
    (mm.withBuf b m).buf k = if k = b then m else mm.buf k := by
  cases b <;> cases k <;> rfl

@[simp] theorem MemoryMap.withBuf_ie (mm : MemoryMap) (b : Buffer) (m : Memory) : (mm.withBuf b m).ie = mm.ie := by
  cases b <;> rfl

@[simp] theorem MemoryMap.withBuf_cart (mm : MemoryMap) (b : Buffer) (m : Memory) : (mm.withBuf b m).cart = mm.cart := by
  cases b <;> rfl

@[simp] theorem MemoryMap.withBuf_withBuf (mm : MemoryMap) (b : Buffer) (m m' : Memory) :
    (mm.withBuf b m).withBuf b m' = mm.withBuf b m' := by
  cases b <;> rfl

@[simp] theorem MemoryMap.withBuf_buf (mm : MemoryMap) (b : Buffer) : mm.withBuf b (mm.buf b) = mm := by
  cases b <;> rfl

end Sys2Proof.Machine
end

