-- ==== Sys2Proof/Laws/Access.lean ====
section
/-! SUPPORT. One spec lemma for each shared operation over the memory map and the effective controller: what it
answers, what it changes and what it leaves. -/

namespace Sys2Proof.Machine

/-! ## Buffers of the memory map -/

/-- A buffer read after a buffer write. -/
@[simp] theorem MemoryMap.load_store (mm : MemoryMap) (b k : Buffer) (i j : Nat) (v : Byte) :
    (mm.store b i v).load k j = if k = b ∧ j = i then v else mm.load k j := by
  unfold MemoryMap.load MemoryMap.store
  by_cases h : k = b
  · subst h; simp
  · simp [h]

@[simp] theorem MemoryMap.store_ie (mm : MemoryMap) (b : Buffer) (i : Nat) (v : Byte) : (mm.store b i v).ie = mm.ie := by
  simp [MemoryMap.store]

@[simp] theorem MemoryMap.store_cart (mm : MemoryMap) (b : Buffer) (i : Nat) (v : Byte) : (mm.store b i v).cart = mm.cart := by
  simp [MemoryMap.store]

@[simp] theorem MemoryMap.store_store (mm : MemoryMap) (b : Buffer) (i : Nat) (u v : Byte) :
    (mm.store b i u).store b i v = mm.store b i v := by
  simp [MemoryMap.store]

/-! ## The effective controller -/

@[simp] theorem MemoryMap.ctl_some {mm : MemoryMap} {c : Controller} (h : mm.cart = some c) : mm.ctl = c := by
  simp [MemoryMap.ctl, h]

@[simp] theorem MemoryMap.ctl_none {mm : MemoryMap} (h : mm.cart = none) :
    mm.ctl = .noBanking { rom := mm.staging, ram := mm.xram } := by
  simp [MemoryMap.ctl, h]

@[simp] theorem MemoryMap.withCtl_some {mm : MemoryMap} {c : Controller} (h : mm.cart = some c) (c' : Controller) :
    mm.withCtl c' = { mm with cart := some c' } := by
  simp [MemoryMap.withCtl, h]

@[simp] theorem MemoryMap.withCtl_none {mm : MemoryMap} (h : mm.cart = none) (nb : NoBanking) :
    mm.withCtl (.noBanking nb) = { mm with xram := nb.ram } := by
  simp [MemoryMap.withCtl, h]

/-- Putting the effective controller back changes nothing. -/
@[simp] theorem MemoryMap.withCtl_ctl (mm : MemoryMap) : mm.withCtl mm.ctl = mm := by
  cases h : mm.cart with
  | none => rw [MemoryMap.ctl_none h, MemoryMap.withCtl_none h]
  | some c => rw [MemoryMap.ctl_some h, MemoryMap.withCtl_some h, ← h]

/-- The effective controller is the one last put, when it is of the same variant as the one before. -/
theorem MemoryMap.ctl_withCtl (mm : MemoryMap) (c : Controller) (h : mm.cart.isSome ∨ ∃ nb, c = .noBanking nb ∧ nb.rom = mm.staging) :
    (mm.withCtl c).ctl = c := by
  cases hc : mm.cart with
  | some k => rw [MemoryMap.withCtl_some hc]; rfl
  | none =>
    obtain ⟨nb, rfl, hrom⟩ : ∃ nb, c = .noBanking nb ∧ nb.rom = mm.staging := by simpa [hc] using h
    rw [MemoryMap.withCtl_none hc]
    simp [MemoryMap.ctl, hc, ← hrom]

/-- A second put replaces the first. -/
theorem MemoryMap.withCtl_withCtl (mm : MemoryMap) (c c' : Controller)
    (h : mm.cart.isSome ∨ (∃ nb, c = .noBanking nb) ∧ ∃ nb, c' = .noBanking nb) :
    (mm.withCtl c).withCtl c' = mm.withCtl c' := by
  cases hc : mm.cart with
  | some k => rw [MemoryMap.withCtl_some hc, MemoryMap.withCtl_some hc, MemoryMap.withCtl_some rfl]
  | none =>
    obtain ⟨⟨nb, rfl⟩, nb', rfl⟩ : (∃ nb, c = .noBanking nb) ∧ ∃ nb, c' = .noBanking nb := by simpa [hc] using h
    simp [MemoryMap.withCtl, hc]

/-- No controller write changes what kind of controller it is (R220). -/
@[simp] theorem Controller.variant_write (c : Controller) (a : Addr) (v : Byte) : (c.write a v).variant = c.variant := by
  cases c <;> rfl

@[simp] theorem Controller.variant_writeRam (c : Controller) (o : RamOffset) (v : Byte) : (c.writeRam o v).variant = c.variant := by
  cases c <;> rfl

theorem LinearBanking.rom_write (c : LinearBanking) (a : Addr) (v : Byte) : (c.write a v).rom = c.rom ∧ (c.write a v).ram = c.ram := by
  unfold LinearBanking.write LinearBanking.setUpper
  split_ifs <;> exact ⟨rfl, rfl⟩

theorem Mbc2.rom_write (c : Mbc2) (a : Addr) (v : Byte) : (c.write a v).rom = c.rom ∧ (c.write a v).ram = c.ram := by
  unfold Mbc2.write
  split_ifs <;> exact ⟨rfl, rfl⟩

theorem Mbc3.rom_write (c : Mbc3) (a : Addr) (v : Byte) : (c.write a v).rom = c.rom ∧ (c.write a v).ram = c.ram := by
  unfold Mbc3.write
  split_ifs <;> exact ⟨rfl, rfl⟩

theorem Mbc5.rom_write (c : Mbc5) (a : Addr) (v : Byte) : (c.write a v).rom = c.rom ∧ (c.write a v).ram = c.ram := by
  unfold Mbc5.write
  split_ifs <;> exact ⟨rfl, rfl⟩

/-- A controller write changes neither a ROM byte nor a RAM cell (R220). -/
theorem Controller.write_storage (c : Controller) (a : Addr) (v : Byte) :
    (c.write a v).romImage = c.romImage ∧ ∀ i, (c.write a v).ramByte i = c.ramByte i := by
  cases c with
  | noBanking c => exact ⟨rfl, fun _ => rfl⟩
  | linear c => exact ⟨(c.rom_write a v).1, fun i => by simp [Controller.write, Controller.ramByte, (c.rom_write a v).2]⟩
  | mbc2 c => exact ⟨(c.rom_write a v).1, fun i => by simp [Controller.write, Controller.ramByte, (c.rom_write a v).2]⟩
  | mbc3 c => exact ⟨(c.rom_write a v).1, fun i => by simp [Controller.write, Controller.ramByte, (c.rom_write a v).2]⟩
  | mbc5 c => exact ⟨(c.rom_write a v).1, fun i => by simp [Controller.write, Controller.ramByte, (c.rom_write a v).2]⟩

/-- The byte a controller's RAM holds after `v` is written to it: the low nibble for MBC2 (R270). -/
def Controller.stored (c : Controller) (v : Byte) : Byte :=
  match c with
  | .mbc2 _ => v &&& 0x0F
  | _ => v

/-- What a RAM write does: it changes the one cell `ramTarget` names, if it names one, and nothing else. -/
theorem Controller.writeRam_spec (c : Controller) (o : RamOffset) (v : Byte) :
    (c.writeRam o v).sansRam = c.sansRam ∧ (c.writeRam o v).romImage = c.romImage ∧
      ∀ i, (c.writeRam o v).ramByte i = if c.ramTarget o = some i then c.stored v else c.ramByte i := by
  have eqc : ∀ i j : Nat, (some i = some j) = (j = i) := fun i j => by simp [eq_comm]
  cases c with
  | noBanking c =>
    exact ⟨rfl, rfl, fun i => by simp [Controller.writeRam, Controller.ramByte, NoBanking.writeRam, Controller.ramTarget, Controller.stored, eq_comm]⟩
  | linear c =>
    rw [show (Controller.linear c).ramTarget o = c.ramCell o from rfl]
    simp only [Controller.writeRam, LinearBanking.writeRam]
    cases h : c.ramCell o with
    | none => exact ⟨rfl, rfl, fun i => by simp⟩
    | some k => exact ⟨rfl, rfl, fun i => by simp [Controller.ramByte, Controller.stored, eq_comm]⟩
  | mbc2 c =>
    rw [show (Controller.mbc2 c).ramTarget o = if c.ramEnabled then some (Mbc2.cell o) else none from rfl]
    simp only [Controller.writeRam, Mbc2.writeRam]
    by_cases h : c.ramEnabled = true
    case neg => exact ⟨by simp [h], by simp [h], fun i => by simp [h]⟩
    case pos =>
      refine ⟨by simp [h, Controller.sansRam], by simp [h, Controller.romImage], fun i => ?_⟩
      simp only [h, if_true, Controller.ramByte, Memory.get_set, Controller.stored, eqc]
      split
      · apply BitVec.eq_of_toNat_eq
        simp only [BitVec.toNat_setWidth, BitVec.toNat_and]
        have : v.toNat &&& 15 < 2 ^ 4 := Nat.lt_of_le_of_lt Nat.and_le_right (by decide)
        simp only [show (0x0F : Byte).toNat = 15 from rfl]
        omega
      · rfl
  | mbc3 c =>
    rw [show (Controller.mbc3 c).ramTarget o = c.ramCell o from rfl]
    simp only [Controller.writeRam, Mbc3.writeRam]
    cases h : c.ramCell o with
    | none => exact ⟨rfl, rfl, fun i => by simp⟩
    | some k => exact ⟨rfl, rfl, fun i => by simp [Controller.ramByte, Controller.stored, eq_comm]⟩
  | mbc5 c =>
    rw [show (Controller.mbc5 c).ramTarget o = c.ramCell o from rfl]
    simp only [Controller.writeRam, Mbc5.writeRam]
    cases h : c.ramCell o with
    | none => exact ⟨rfl, rfl, fun i => by simp⟩
    | some k => exact ⟨rfl, rfl, fun i => by simp [Controller.ramByte, Controller.stored, eq_comm]⟩

/-! ## How a request ends -/

@[simp] theorem State.onNoBanking_eq {s : State} {c : NoBanking} (h : s.mm.ctl = .noBanking c) (k : NoBanking → Out) :
    s.onNoBanking k = k c := by simp [State.onNoBanking, h]

@[simp] theorem State.onLinear_eq {s : State} {c : LinearBanking} (h : s.mm.ctl = .linear c) (k : LinearBanking → Out) :
    s.onLinear k = k c := by simp [State.onLinear, h]

@[simp] theorem State.onMbc2_eq {s : State} {c : Mbc2} (h : s.mm.ctl = .mbc2 c) (k : Mbc2 → Out) :
    s.onMbc2 k = k c := by simp [State.onMbc2, h]

@[simp] theorem State.onMbc3_eq {s : State} {c : Mbc3} (h : s.mm.ctl = .mbc3 c) (k : Mbc3 → Out) :
    s.onMbc3 k = k c := by simp [State.onMbc3, h]

@[simp] theorem State.onMbc5_eq {s : State} {c : Mbc5} (h : s.mm.ctl = .mbc5 c) (k : Mbc5 → Out) :
    s.onMbc5 k = k c := by simp [State.onMbc5, h]

/-- A bank-0 read completes unless the image is too short and the build is the debug one (R228, R322). -/
theorem romBank0_cases (p : IndexPolicy) (rom : Image) (a : Addr) :
    (a.toNat < rom.len ∧ romBank0 p rom a = .ok (rom.byte a.toNat)) ∨
    (rom.len ≤ a.toNat ∧ p = .degrade ∧ romBank0 p rom a = .ok 0xFF) ∨
    (rom.len ≤ a.toNat ∧ p = .fault ∧ romBank0 p rom a = .error (.internalIndexViolation a)) := by
  unfold romBank0 internalIndex
  split
  · exact .inl ⟨‹_›, rfl⟩
  · cases p
    · exact .inr (.inl ⟨by omega, rfl, rfl⟩)
    · exact .inr (.inr ⟨by omega, rfl, rfl⟩)

/-- A controller read completes in the production build (R320). -/
theorem Controller.read_degrade (c : Controller) (a : Addr) : ∃ v, c.read .degrade a = .ok v := by
  have bank0 : ∀ rom, ∃ v, romBank0 .degrade rom a = .ok v := fun rom => by
    obtain ⟨_, h⟩ | ⟨_, _, h⟩ | ⟨_, h, _⟩ := romBank0_cases .degrade rom a
    · exact ⟨_, h⟩
    · exact ⟨_, h⟩
    · cases h
  cases c with
  | noBanking c => exact ⟨_, rfl⟩
  | linear c =>
    simp only [Controller.read, LinearBanking.read]
    split_ifs
    · exact bank0 _
    · exact ⟨_, rfl⟩
    · exact ⟨_, rfl⟩
  | mbc2 c =>
    simp only [Controller.read, Mbc2.read]
    split_ifs
    · exact bank0 _
    · exact ⟨_, rfl⟩
    · exact ⟨_, rfl⟩
  | mbc3 c =>
    simp only [Controller.read, Mbc3.read]
    split_ifs
    · exact bank0 _
    · exact ⟨_, rfl⟩
    · exact ⟨_, rfl⟩
  | mbc5 c =>
    simp only [Controller.read, Mbc5.read]
    split_ifs
    · exact bank0 _
    · exact ⟨_, rfl⟩
    · exact ⟨_, rfl⟩

/-- The one way a controller read raises (R321 EV2). -/
theorem Controller.read_error {p : IndexPolicy} {c : Controller} {a : Addr} {f : Fault} (h : c.read p a = .error f) :
    p = .fault ∧ f = .internalIndexViolation a ∧ a.toNat ≤ 0x3FFF ∧ c.romImage.len ≤ a.toNat ∧ c.variant ≠ .noBanking := by
  have bank0 : ∀ rom, romBank0 p rom a = .error f → p = .fault ∧ f = .internalIndexViolation a ∧ rom.len ≤ a.toNat := by
    intro rom h
    obtain ⟨_, e⟩ | ⟨_, _, e⟩ | ⟨hl, hp, e⟩ := romBank0_cases p rom a
    · simp [e] at h
    · simp [e] at h
    · rw [e] at h; cases h; exact ⟨hp, rfl, hl⟩
  cases c with
  | noBanking c => simp [Controller.read] at h
  | linear c =>
    simp only [Controller.read, LinearBanking.read] at h
    split_ifs at h with h1
    obtain ⟨x, y, z⟩ := bank0 _ h
    exact ⟨x, y, h1, z, by simp [Controller.variant]⟩
  | mbc2 c =>
    simp only [Controller.read, Mbc2.read] at h
    split_ifs at h with h1
    obtain ⟨x, y, z⟩ := bank0 _ h
    exact ⟨x, y, h1, z, by simp [Controller.variant]⟩
  | mbc3 c =>
    simp only [Controller.read, Mbc3.read] at h
    split_ifs at h with h1
    obtain ⟨x, y, z⟩ := bank0 _ h
    exact ⟨x, y, h1, z, by simp [Controller.variant]⟩
  | mbc5 c =>
    simp only [Controller.read, Mbc5.read] at h
    split_ifs at h with h1
    obtain ⟨x, y, z⟩ := bank0 _ h
    exact ⟨x, y, h1, z, by simp [Controller.variant]⟩

end Sys2Proof.Machine
end

