-- ==== Sys2Proof/Laws/Exec.lean ====
section
/-! SUPPORT. What `exec` does with what the decoder gives: one equation for each port of the block, and one case
analysis over all of them, from which the statements about every step follow. -/

namespace Sys2Proof.Machine

/-! ## The BUS port -/

/-- A byte read of an address is `read(addr)` (41_memory_map.md R171). -/
theorem exec_decodeRead (s : State) (a : Addr) : exec (decodeRead a) s = s.answerByte (s.readByte a) := by
  rcases owner_cases a with k | k | k | k | k | k | k | k | k | k <;>
    simp only [decodeRead, State.readByte, k.1] <;> rfl

/-- A byte write of an address is `write(addr, v)` (R182). -/
theorem exec_decodeWrite (s : State) (a : Addr) (v : Byte) :
    exec (decodeWrite a v) s = s.finishMm (s.mm.writeByte a v) := by
  rcases owner_cases a with k | k | k | k | k | k | k | k | k | k <;>
    simp only [decodeWrite, MemoryMap.writeByte, k.1] <;> rfl

/-- A ROM-range read completes in the production build (60_exceptions.md R320). -/
theorem State.readRom_degrade (s : State) (a : Addr) (h : s.params.indexViolation = .degrade) :
    ∃ v, s.readRom a = .ok (v, s.draws) := by
  obtain ⟨v, hv⟩ := s.mm.ctl.read_degrade a
  exact ⟨v, by simp [State.readRom, h, hv, noDraw]⟩

/-- A byte read completes in the production build. -/
theorem State.readByte_degrade (s : State) (a : Addr) (h : s.params.indexViolation = .degrade) :
    ∃ v n, s.readByte a = .ok (v, n) := by
  obtain ⟨v, hv⟩ := s.readRom_degrade a h
  rcases owner_cases a with k | k | k | k | k | k | k | k | k | k <;> simp only [State.readByte, k.1]
  · exact ⟨_, _, hv⟩
  all_goals exact ⟨_, _, rfl⟩

/-! ## The CART port -/

theorem cart_ofNat (op a : Nat) (h : op < 4) (ha : a < 0x10000) :
    ReqWord.cart (BitVec.ofNat 18 (op * 0x10000 + a)) = cartWord (BitVec.ofNat 2 op) (BitVec.ofNat 16 a) := by
  rw [cartWord, BitVec.toNat_ofNat, BitVec.toNat_ofNat, Nat.mod_eq_of_lt h, Nat.mod_eq_of_lt ha]

theorem cartMeans_read {var : Variant} {a : Addr} {data : Word} {i : Instr} :
    CartMeans var 0 a.toNat data i ↔ decodeCartRead var a = i := by
  rw [CartMeans, cart_ofNat 0 _ (by decide) a.isLt, BitVec.ofNat_toNat, BitVec.setWidth_eq]
  rw [show BitVec.ofNat 2 0 = 0 from rfl, decode_cartRead]; simp

theorem cartMeans_write {var : Variant} {a : Addr} {v : Byte} {i : Instr} :
    CartMeans var 1 a.toNat (v.setWidth 16) i ↔ decodeCartWrite var a v = i := by
  rw [CartMeans, cart_ofNat 1 _ (by decide) a.isLt, BitVec.ofNat_toNat, BitVec.setWidth_eq]
  rw [show BitVec.ofNat 2 1 = 1 from rfl, decode_cartWrite, loByte_setWidth]; simp

theorem offset_ofNat {n : Nat} (h : n < 0x2000) : BitVec.ofNat 16 n = (BitVec.ofNat 13 n).setWidth 16 := by
  apply BitVec.eq_of_toNat_eq
  simp only [BitVec.toNat_ofNat, BitVec.toNat_setWidth]
  omega

theorem cartMeans_readRam {var : Variant} {n : Nat} (h : n < 0x2000) {data : Word} {i : Instr} :
    CartMeans var 2 n data i ↔ decodeCartReadRam var (BitVec.ofNat 13 n) = i := by
  rw [CartMeans, cart_ofNat 2 _ (by decide) (by omega), offset_ofNat h]
  rw [show BitVec.ofNat 2 2 = 2 from rfl, decode_cartReadRam]; simp

theorem cartMeans_writeRam {var : Variant} {n : Nat} (h : n < 0x2000) {v : Byte} {i : Instr} :
    CartMeans var 3 n (v.setWidth 16) i ↔ decodeCartWriteRam var (BitVec.ofNat 13 n) v = i := by
  rw [CartMeans, cart_ofNat 3 _ (by decide) (by omega), offset_ofNat h]
  rw [show BitVec.ofNat 2 3 = 3 from rfl, decode_cartWriteRam, loByte_setWidth]; simp

/-- A controller `read` of the active variant is the active controller's own (42_mbc_nobanking_linear.md R220). -/
theorem exec_decodeCartRead (s : State) (a : Addr) : exec (decodeCartRead s.variant a) s = s.answerByte (s.readRom a) := by
  unfold State.readRom
  cases hc : s.mm.ctl <;> simp only [State.variant, hc, Controller.variant, decodeCartRead]
  · split_ifs with h
    · simp only [exec, execNbRead0000, State.onNoBanking_eq hc, Controller.read, NoBanking.read, if_pos (Nat.lt_succ_of_le h)]; rfl
    · simp only [exec, execNbRead8000, State.onNoBanking_eq hc, Controller.read, NoBanking.read,
        if_neg (show ¬ a.toNat < 0x8000 by omega)]; rfl
  all_goals
    split_ifs with h h'
    · simp only [exec, execLbRead0000, execM2Read0000, execM3Read0000, execM5Read0000, State.onLinear, State.onMbc2,
        State.onMbc3, State.onMbc5, hc, Controller.read, LinearBanking.read, Mbc2.read, Mbc3.read, Mbc5.read, if_pos h]
    · simp only [exec, execLbRead4000, execM2Read4000, execM3Read4000, execM5Read4000, State.onLinear, State.onMbc2,
        State.onMbc3, State.onMbc5, hc, Controller.read, LinearBanking.read, Mbc2.read, Mbc3.read, Mbc5.read, if_neg h, if_pos h']; rfl
    · simp only [exec, execLbRead8000, execM2Read8000, execM3Read8000, execM5Read8000, State.onLinear, State.onMbc2,
        State.onMbc3, State.onMbc5, hc, Controller.read, LinearBanking.read, Mbc2.read, Mbc3.read, Mbc5.read, if_neg h, if_neg h']; rfl

/-- A controller `write` of the active variant is the active controller's own. -/
theorem exec_decodeCartWrite (s : State) (a : Addr) (v : Byte) :
    exec (decodeCartWrite s.variant a v) s = s.finishMm (s.mm.writeRom a v) := by
  unfold MemoryMap.writeRom
  cases hc : s.mm.ctl <;> simp only [State.variant, hc, Controller.variant, decodeCartWrite]
  · simp only [exec, execNbWrite0000, State.onNoBanking_eq hc]; rfl
  all_goals
    simp only [Controller.write, LinearBanking.write, Mbc2.write, Mbc3.write, Mbc5.write]
    split_ifs
    all_goals
      simp only [exec, execLbWrite0000, execLbWrite2000, execLbWrite4000, execLbWrite6000, execLbWrite8000,
        execM2WriteA8Clear, execM2WriteA8Set, execM2Write4000, execM3Write0000, execM3Write2000, execM3Write4000,
        execM3Write6000, execM3Write8000, execM5Write0000, execM5Write2000, execM5Write3000, execM5Write4000,
        execM5Write6000, State.onLinear, State.onMbc2, State.onMbc3, State.onMbc5, hc]; rfl

/-- A controller `readRAM` of the active variant is the active controller's own. -/
theorem exec_decodeCartReadRam (s : State) (o : RamOffset) :
    exec (decodeCartReadRam s.variant o) s = s.answerByte (.ok (s.mm.ctl.readRam o s.draws)) := by
  cases hc : s.mm.ctl <;> simp only [State.variant, hc, Controller.variant, decodeCartReadRam, exec, Controller.readRam,
    execNbReadRam, execLbReadRam, execM2ReadRam, execM3ReadRam, execM5ReadRam, State.onNoBanking, State.onLinear,
    State.onMbc2, State.onMbc3, State.onMbc5] <;> rfl

/-- A controller `writeRAM` of the active variant is the active controller's own. -/
theorem exec_decodeCartWriteRam (s : State) (o : RamOffset) (v : Byte) :
    exec (decodeCartWriteRam s.variant o v) s = s.finishMm (s.mm.withCtl (s.mm.ctl.writeRam o v)) := by
  cases hc : s.mm.ctl <;> simp only [State.variant, hc, Controller.variant, decodeCartWriteRam, exec, Controller.writeRam,
    execNbWriteRam, execLbWriteRam, execM2WriteRam, execM3WriteRam, execM5WriteRam, State.onNoBanking, State.onLinear,
    State.onMbc2, State.onMbc3, State.onMbc5] <;> rfl

/-- A controller write completes with the controller replaced, while there is one. -/
theorem State.finishCtl_some {s : State} {c : Controller} (h : s.mm.cart = some c) (c' : Controller) :
    s.finishCtl c' = .next { s with mm := { s.mm with cart := some c' }, resp := .done } := by
  simp [State.finishCtl, State.withCtl, MemoryMap.withCtl_some h, State.withMm, State.respond]

/-! ## All ports -/

/-- What a decoded request does, port by port (30_encoding.md R101 to R106). -/
theorem exec_decoded (s : State) (r : Request) (i : Instr) (h : decode s.variant r = .ok i) :
    (∃ a, exec i s = s.answerByte (s.readByte a)) ∨ (∃ a, exec i s = s.answerByte (s.readRom a)) ∨
    (∃ o, exec i s = s.answerByte (.ok (s.mm.ctl.readRam o s.draws))) ∨ (∃ a, exec i s = s.answerWord (s.readWord a)) ∨
    (∃ x, exec i s = .next (s.respond x)) ∨ (∃ rf, exec i s = s.finishRf rf) ∨
    (∃ a v, exec i s = s.finishMm (s.mm.writeByte a v)) ∨ (∃ a v, exec i s = s.finishMm (s.mm.writeRom a v)) ∨
    (∃ o v, exec i s = s.finishMm (s.mm.withCtl (s.mm.ctl.writeRam o v))) ∨
    (∃ a v, exec i s = s.finishMm (s.mm.writeWord a v)) ∨ exec i s = s.finishMm s.mm.reset ∨
    (r.word = .ctl 0x01 ∧ i = .loadrom r.image (loByte r.data)) := by
  obtain ⟨word, data, image⟩ := r
  cases word with
  | bus q =>
    simp only [decode, decodeBus] at h
    split at h <;> cases h
    · exact .inl ⟨_, exec_decodeRead _ _⟩
    · exact .inr (.inr (.inr (.inr (.inr (.inr (.inl ⟨_, _, exec_decodeWrite _ _ _⟩))))))
    · exact .inr (.inr (.inr (.inl ⟨_, rfl⟩)))
    · exact .inr (.inr (.inr (.inr (.inr (.inr (.inr (.inr (.inr (.inl ⟨_, _, rfl⟩)))))))))
  | cart c =>
    simp only [decode, decodeCart] at h
    split at h
    · cases h; exact .inr (.inl ⟨_, exec_decodeCartRead _ _⟩)
    · cases h; exact .inr (.inr (.inr (.inr (.inr (.inr (.inr (.inl ⟨_, _, exec_decodeCartWrite _ _ _⟩)))))))
    · split at h <;> cases h
      exact .inr (.inr (.inl ⟨_, exec_decodeCartReadRam _ _⟩))
    · split at h <;> cases h
      exact .inr (.inr (.inr (.inr (.inr (.inr (.inr (.inr (.inl ⟨_, _, exec_decodeCartWriteRam _ _ _⟩))))))))
  | reg x =>
    simp only [decode, decodeReg] at h
    split at h <;> first
      | (cases h; exact .inr (.inr (.inr (.inr (.inl ⟨_, rfl⟩)))))
      | (cases h; exact .inr (.inr (.inr (.inr (.inr (.inl ⟨_, rfl⟩))))))
      | cases h
  | ctl k =>
    simp only [decode, decodeCtl] at h
    split at h
    · cases h; exact .inr (.inr (.inr (.inr (.inr (.inr (.inr (.inr (.inr (.inr (.inl rfl))))))))))
    · rename_i hk
      cases h
      exact .inr (.inr (.inr (.inr (.inr (.inr (.inr (.inr (.inr (.inr (.inr ⟨by rw [show k = 0x01 from BitVec.eq_of_toNat_eq hk], rfl⟩))))))))))
    · cases h

/-- A byte read that completes changes nothing but the response and the draws. -/
theorem State.answerByte_next {s t : State} {x : Except Fault (Byte × Nat)} (h : s.answerByte x = .next t) :
    ∃ v n, x = .ok (v, n) ∧ t = (s.withDraws n).respond (.byte v) := by
  cases x with
  | ok y => cases h; exact ⟨_, _, rfl, rfl⟩
  | error f => cases h

/-- A word read that completes changes nothing but the response and the draws. -/
theorem State.answerWord_next {s t : State} {x : Except Fault (Word × Nat)} (h : s.answerWord x = .next t) :
    ∃ v n, x = .ok (v, n) ∧ t = (s.withDraws n).respond (.word v) := by
  cases x with
  | ok y => cases h; exact ⟨_, _, rfl, rfl⟩
  | error f => cases h

/-- A step is the decoded request run at the state without it (20_memory.md R78). -/
theorem step_next {s t : State} (h : step s = .next t) :
    (s.pending = [] ∧ t = s) ∨ ∃ r rest i, s.pending = r :: rest ∧ decode s.variant r = .ok i ∧ exec i (s.withPending rest) = .next t := by
  simp only [step, State.takeRequest] at h
  cases hp : s.pending with
  | nil => rw [hp] at h; cases h; exact .inl ⟨rfl, rfl⟩
  | cons r rest =>
    simp only [hp] at h
    cases hd : decode (s.withPending rest).variant r with
    | error e => rw [hd] at h; cases h
    | ok i => rw [hd] at h; exact .inr ⟨r, rest, i, rfl, hd, h⟩

end Sys2Proof.Machine
end

