-- ==== Sys2Proof/Laws/PerInstr.lean ====
section
/-! SUPPORT. The statements made for every instruction, one lemma for each constructor. -/

namespace Sys2Proof.Laws

/-- Decoding the request the encoder builds for a well-formed instruction gives the instruction back, while a
variant is active that has it among its rows (30_encoding.md R101 to R111). -/
def RoundTrip.Statement (i : Instr) : Prop := i.WellFormed → ∀ v, i.fits v → decode v (encode i) = .ok i

/-- `fits` of a CART instruction names the active variant. -/
theorem RoundTrip.variant_eq {w v : Variant} (h : some w = none ∨ some w = some v) : w = v := by
  simpa using h

theorem RoundTrip.rRom (a : Addr) : RoundTrip.Statement (.rRom a) := fun h var _ => by
  rw [show encode (.rRom a) = ⟨busWord false false a, 0, []⟩ from rfl, decode_busWord]
  simp only [decodeRead, owner_cartRom a h]

theorem RoundTrip.rVram (a : Addr) : RoundTrip.Statement (.rVram a) := fun h var _ => by
  rw [show encode (.rVram a) = ⟨busWord false false a, 0, []⟩ from rfl, decode_busWord]
  simp only [decodeRead, owner_vram a h]

theorem RoundTrip.rCram (a : Addr) : RoundTrip.Statement (.rCram a) := fun h var _ => by
  rw [show encode (.rCram a) = ⟨busWord false false a, 0, []⟩ from rfl, decode_busWord]
  simp only [decodeRead, owner_cartRam a h]

theorem RoundTrip.rWram (a : Addr) : RoundTrip.Statement (.rWram a) := fun h var _ => by
  rw [show encode (.rWram a) = ⟨busWord false false a, 0, []⟩ from rfl, decode_busWord]
  simp only [decodeRead, owner_wram a h]

theorem RoundTrip.rEcho (a : Addr) : RoundTrip.Statement (.rEcho a) := fun h var _ => by
  rw [show encode (.rEcho a) = ⟨busWord false false a, 0, []⟩ from rfl, decode_busWord]
  simp only [decodeRead, owner_echo a h]

theorem RoundTrip.rOam (a : Addr) : RoundTrip.Statement (.rOam a) := fun h var _ => by
  rw [show encode (.rOam a) = ⟨busWord false false a, 0, []⟩ from rfl, decode_busWord]
  simp only [decodeRead, owner_oam a h]

theorem RoundTrip.rUnmapped (a : Addr) : RoundTrip.Statement (.rUnmapped a) := fun h var _ => by
  rw [show encode (.rUnmapped a) = ⟨busWord false false a, 0, []⟩ from rfl, decode_busWord]
  simp only [decodeRead, owner_unmapped a h]

theorem RoundTrip.rIo (a : Addr) : RoundTrip.Statement (.rIo a) := fun h var _ => by
  rw [show encode (.rIo a) = ⟨busWord false false a, 0, []⟩ from rfl, decode_busWord]
  simp only [decodeRead, owner_io a h]

theorem RoundTrip.rHram (a : Addr) : RoundTrip.Statement (.rHram a) := fun h var _ => by
  rw [show encode (.rHram a) = ⟨busWord false false a, 0, []⟩ from rfl, decode_busWord]
  simp only [decodeRead, owner_hram a h]

theorem RoundTrip.rIe (a : Addr) : RoundTrip.Statement (.rIe a) := fun h var _ => by
  rw [show encode (.rIe a) = ⟨busWord false false a, 0, []⟩ from rfl, decode_busWord]
  simp only [decodeRead, owner_ie a h]

theorem RoundTrip.wRom (a : Addr) (v : Byte) : RoundTrip.Statement (.wRom a v) := fun h var _ => by
  rw [show encode (.wRom a v) = ⟨busWord false true a, v.setWidth 16, []⟩ from rfl, decode_busWord]
  simp only [decodeWrite, owner_cartRom a h, loByte_setWidth]

theorem RoundTrip.wVram (a : Addr) (v : Byte) : RoundTrip.Statement (.wVram a v) := fun h var _ => by
  rw [show encode (.wVram a v) = ⟨busWord false true a, v.setWidth 16, []⟩ from rfl, decode_busWord]
  simp only [decodeWrite, owner_vram a h, loByte_setWidth]

theorem RoundTrip.wCram (a : Addr) (v : Byte) : RoundTrip.Statement (.wCram a v) := fun h var _ => by
  rw [show encode (.wCram a v) = ⟨busWord false true a, v.setWidth 16, []⟩ from rfl, decode_busWord]
  simp only [decodeWrite, owner_cartRam a h, loByte_setWidth]

theorem RoundTrip.wWram (a : Addr) (v : Byte) : RoundTrip.Statement (.wWram a v) := fun h var _ => by
  rw [show encode (.wWram a v) = ⟨busWord false true a, v.setWidth 16, []⟩ from rfl, decode_busWord]
  simp only [decodeWrite, owner_wram a h, loByte_setWidth]

theorem RoundTrip.wEcho (a : Addr) (v : Byte) : RoundTrip.Statement (.wEcho a v) := fun h var _ => by
  rw [show encode (.wEcho a v) = ⟨busWord false true a, v.setWidth 16, []⟩ from rfl, decode_busWord]
  simp only [decodeWrite, owner_echo a h, loByte_setWidth]

theorem RoundTrip.wOam (a : Addr) (v : Byte) : RoundTrip.Statement (.wOam a v) := fun h var _ => by
  rw [show encode (.wOam a v) = ⟨busWord false true a, v.setWidth 16, []⟩ from rfl, decode_busWord]
  simp only [decodeWrite, owner_oam a h, loByte_setWidth]

theorem RoundTrip.wUnmapped (a : Addr) (v : Byte) : RoundTrip.Statement (.wUnmapped a v) := fun h var _ => by
  rw [show encode (.wUnmapped a v) = ⟨busWord false true a, v.setWidth 16, []⟩ from rfl, decode_busWord]
  simp only [decodeWrite, owner_unmapped a h, loByte_setWidth]

theorem RoundTrip.wIo (a : Addr) (v : Byte) : RoundTrip.Statement (.wIo a v) := fun h var _ => by
  rw [show encode (.wIo a v) = ⟨busWord false true a, v.setWidth 16, []⟩ from rfl, decode_busWord]
  simp only [decodeWrite, owner_io a h, loByte_setWidth]

theorem RoundTrip.wHram (a : Addr) (v : Byte) : RoundTrip.Statement (.wHram a v) := fun h var _ => by
  rw [show encode (.wHram a v) = ⟨busWord false true a, v.setWidth 16, []⟩ from rfl, decode_busWord]
  simp only [decodeWrite, owner_hram a h, loByte_setWidth]

theorem RoundTrip.wIe (a : Addr) (v : Byte) : RoundTrip.Statement (.wIe a v) := fun h var _ => by
  rw [show encode (.wIe a v) = ⟨busWord false true a, v.setWidth 16, []⟩ from rfl, decode_busWord]
  simp only [decodeWrite, owner_ie a h, loByte_setWidth]

theorem RoundTrip.rdw (a : Addr) : RoundTrip.Statement (.rdw a) := fun _ var _ => decode_busWord var true false a 0 []

theorem RoundTrip.wrw (a : Addr) (v : Word) : RoundTrip.Statement (.wrw a v) := fun _ var _ => decode_busWord var true true a _ []

theorem RoundTrip.nbRead0000 (a : Addr) : RoundTrip.Statement (.nbRead0000 a) := fun h var hv => by
  obtain rfl := RoundTrip.variant_eq hv
  simp only [Instr.WellFormed, Instr.wf, inRange_iff] at h
  refine (decode_cartRead _ a 0 []).trans ?_
  simp only [decodeCartRead]
  split_ifs <;> first | rfl | omega

theorem RoundTrip.nbRead8000 (a : Addr) : RoundTrip.Statement (.nbRead8000 a) := fun h var hv => by
  obtain rfl := RoundTrip.variant_eq hv
  simp only [Instr.WellFormed, Instr.wf, inRange_iff] at h
  refine (decode_cartRead _ a 0 []).trans ?_
  simp only [decodeCartRead]
  split_ifs <;> first | rfl | omega

theorem RoundTrip.nbWrite0000 (a : Addr) (v : Byte) : RoundTrip.Statement (.nbWrite0000 a v) := fun _ var hv => by
  obtain rfl := RoundTrip.variant_eq hv
  exact (decode_cartWrite _ a _ []).trans (by rw [loByte_setWidth]; rfl)

theorem RoundTrip.nbReadRam (o : RamOffset) : RoundTrip.Statement (.nbReadRam o) := fun _ var hv => by
  obtain rfl := RoundTrip.variant_eq hv
  exact decode_cartReadRam _ o 0 []

theorem RoundTrip.nbWriteRam (o : RamOffset) (v : Byte) : RoundTrip.Statement (.nbWriteRam o v) := fun _ var hv => by
  obtain rfl := RoundTrip.variant_eq hv
  exact (decode_cartWriteRam _ o _ []).trans (by rw [loByte_setWidth]; rfl)

theorem RoundTrip.lbRead0000 (a : Addr) : RoundTrip.Statement (.lbRead0000 a) := fun h var hv => by
  obtain rfl := RoundTrip.variant_eq hv
  simp only [Instr.WellFormed, Instr.wf, inRange_iff] at h
  refine (decode_cartRead _ a 0 []).trans ?_
  simp only [decodeCartRead]
  split_ifs <;> first | rfl | omega

theorem RoundTrip.lbRead4000 (a : Addr) : RoundTrip.Statement (.lbRead4000 a) := fun h var hv => by
  obtain rfl := RoundTrip.variant_eq hv
  simp only [Instr.WellFormed, Instr.wf, inRange_iff] at h
  refine (decode_cartRead _ a 0 []).trans ?_
  simp only [decodeCartRead]
  split_ifs <;> first | rfl | omega

theorem RoundTrip.lbRead8000 (a : Addr) : RoundTrip.Statement (.lbRead8000 a) := fun h var hv => by
  obtain rfl := RoundTrip.variant_eq hv
  simp only [Instr.WellFormed, Instr.wf, inRange_iff] at h
  refine (decode_cartRead _ a 0 []).trans ?_
  simp only [decodeCartRead]
  split_ifs <;> first | rfl | omega

theorem RoundTrip.lbWrite0000 (a : Addr) (v : Byte) : RoundTrip.Statement (.lbWrite0000 a v) := fun h var hv => by
  obtain rfl := RoundTrip.variant_eq hv
  simp only [Instr.WellFormed, Instr.wf, inRange_iff] at h
  refine (decode_cartWrite _ a _ []).trans ?_
  simp only [decodeCartWrite, loByte_setWidth]
  split_ifs <;> first | rfl | omega

theorem RoundTrip.lbWrite2000 (a : Addr) (v : Byte) : RoundTrip.Statement (.lbWrite2000 a v) := fun h var hv => by
  obtain rfl := RoundTrip.variant_eq hv
  simp only [Instr.WellFormed, Instr.wf, inRange_iff] at h
  refine (decode_cartWrite _ a _ []).trans ?_
  simp only [decodeCartWrite, loByte_setWidth]
  split_ifs <;> first | rfl | omega

theorem RoundTrip.lbWrite4000 (a : Addr) (v : Byte) : RoundTrip.Statement (.lbWrite4000 a v) := fun h var hv => by
  obtain rfl := RoundTrip.variant_eq hv
  simp only [Instr.WellFormed, Instr.wf, inRange_iff] at h
  refine (decode_cartWrite _ a _ []).trans ?_
  simp only [decodeCartWrite, loByte_setWidth]
  split_ifs <;> first | rfl | omega

theorem RoundTrip.lbWrite6000 (a : Addr) (v : Byte) : RoundTrip.Statement (.lbWrite6000 a v) := fun h var hv => by
  obtain rfl := RoundTrip.variant_eq hv
  simp only [Instr.WellFormed, Instr.wf, inRange_iff] at h
  refine (decode_cartWrite _ a _ []).trans ?_
  simp only [decodeCartWrite, loByte_setWidth]
  split_ifs <;> first | rfl | omega

theorem RoundTrip.lbWrite8000 (a : Addr) (v : Byte) : RoundTrip.Statement (.lbWrite8000 a v) := fun h var hv => by
  obtain rfl := RoundTrip.variant_eq hv
  simp only [Instr.WellFormed, Instr.wf, inRange_iff] at h
  refine (decode_cartWrite _ a _ []).trans ?_
  simp only [decodeCartWrite, loByte_setWidth]
  split_ifs <;> first | rfl | omega

theorem RoundTrip.lbReadRam (o : RamOffset) : RoundTrip.Statement (.lbReadRam o) := fun _ var hv => by
  obtain rfl := RoundTrip.variant_eq hv
  exact decode_cartReadRam _ o 0 []

theorem RoundTrip.lbWriteRam (o : RamOffset) (v : Byte) : RoundTrip.Statement (.lbWriteRam o v) := fun _ var hv => by
  obtain rfl := RoundTrip.variant_eq hv
  exact (decode_cartWriteRam _ o _ []).trans (by rw [loByte_setWidth]; rfl)

theorem RoundTrip.m2Read0000 (a : Addr) : RoundTrip.Statement (.m2Read0000 a) := fun h var hv => by
  obtain rfl := RoundTrip.variant_eq hv
  simp only [Instr.WellFormed, Instr.wf, inRange_iff] at h
  refine (decode_cartRead _ a 0 []).trans ?_
  simp only [decodeCartRead]
  split_ifs <;> first | rfl | omega

theorem RoundTrip.m2Read4000 (a : Addr) : RoundTrip.Statement (.m2Read4000 a) := fun h var hv => by
  obtain rfl := RoundTrip.variant_eq hv
  simp only [Instr.WellFormed, Instr.wf, inRange_iff] at h
  refine (decode_cartRead _ a 0 []).trans ?_
  simp only [decodeCartRead]
  split_ifs <;> first | rfl | omega

theorem RoundTrip.m2Read8000 (a : Addr) : RoundTrip.Statement (.m2Read8000 a) := fun h var hv => by
  obtain rfl := RoundTrip.variant_eq hv
  simp only [Instr.WellFormed, Instr.wf, inRange_iff] at h
  refine (decode_cartRead _ a 0 []).trans ?_
  simp only [decodeCartRead]
  split_ifs <;> first | rfl | omega

theorem RoundTrip.m2WriteA8Clear (a : Addr) (v : Byte) : RoundTrip.Statement (.m2WriteA8Clear a v) := fun h var hv => by
  obtain rfl := RoundTrip.variant_eq hv
  simp only [Instr.WellFormed, Instr.wf, inRange_iff, Bool.and_eq_true, Bool.not_eq_true'] at h
  refine (decode_cartWrite _ a _ []).trans ?_
  simp only [decodeCartWrite, loByte_setWidth]
  split_ifs <;> first | rfl | omega | simp_all

theorem RoundTrip.m2WriteA8Set (a : Addr) (v : Byte) : RoundTrip.Statement (.m2WriteA8Set a v) := fun h var hv => by
  obtain rfl := RoundTrip.variant_eq hv
  simp only [Instr.WellFormed, Instr.wf, inRange_iff, Bool.and_eq_true] at h
  refine (decode_cartWrite _ a _ []).trans ?_
  simp only [decodeCartWrite, loByte_setWidth]
  split_ifs <;> first | rfl | omega | simp_all

theorem RoundTrip.m2Write4000 (a : Addr) (v : Byte) : RoundTrip.Statement (.m2Write4000 a v) := fun h var hv => by
  obtain rfl := RoundTrip.variant_eq hv
  simp only [Instr.WellFormed, Instr.wf, inRange_iff] at h
  refine (decode_cartWrite _ a _ []).trans ?_
  simp only [decodeCartWrite, loByte_setWidth]
  split_ifs <;> first | rfl | omega

theorem RoundTrip.m2ReadRam (o : RamOffset) : RoundTrip.Statement (.m2ReadRam o) := fun _ var hv => by
  obtain rfl := RoundTrip.variant_eq hv
  exact decode_cartReadRam _ o 0 []

theorem RoundTrip.m2WriteRam (o : RamOffset) (v : Byte) : RoundTrip.Statement (.m2WriteRam o v) := fun _ var hv => by
  obtain rfl := RoundTrip.variant_eq hv
  exact (decode_cartWriteRam _ o _ []).trans (by rw [loByte_setWidth]; rfl)

theorem RoundTrip.m3Read0000 (a : Addr) : RoundTrip.Statement (.m3Read0000 a) := fun h var hv => by
  obtain rfl := RoundTrip.variant_eq hv
  simp only [Instr.WellFormed, Instr.wf, inRange_iff] at h
  refine (decode_cartRead _ a 0 []).trans ?_
  simp only [decodeCartRead]
  split_ifs <;> first | rfl | omega

theorem RoundTrip.m3Read4000 (a : Addr) : RoundTrip.Statement (.m3Read4000 a) := fun h var hv => by
  obtain rfl := RoundTrip.variant_eq hv
  simp only [Instr.WellFormed, Instr.wf, inRange_iff] at h
  refine (decode_cartRead _ a 0 []).trans ?_
  simp only [decodeCartRead]
  split_ifs <;> first | rfl | omega

theorem RoundTrip.m3Read8000 (a : Addr) : RoundTrip.Statement (.m3Read8000 a) := fun h var hv => by
  obtain rfl := RoundTrip.variant_eq hv
  simp only [Instr.WellFormed, Instr.wf, inRange_iff] at h
  refine (decode_cartRead _ a 0 []).trans ?_
  simp only [decodeCartRead]
  split_ifs <;> first | rfl | omega

theorem RoundTrip.m3Write0000 (a : Addr) (v : Byte) : RoundTrip.Statement (.m3Write0000 a v) := fun h var hv => by
  obtain rfl := RoundTrip.variant_eq hv
  simp only [Instr.WellFormed, Instr.wf, inRange_iff] at h
  refine (decode_cartWrite _ a _ []).trans ?_
  simp only [decodeCartWrite, loByte_setWidth]
  split_ifs <;> first | rfl | omega

theorem RoundTrip.m3Write2000 (a : Addr) (v : Byte) : RoundTrip.Statement (.m3Write2000 a v) := fun h var hv => by
  obtain rfl := RoundTrip.variant_eq hv
  simp only [Instr.WellFormed, Instr.wf, inRange_iff] at h
  refine (decode_cartWrite _ a _ []).trans ?_
  simp only [decodeCartWrite, loByte_setWidth]
  split_ifs <;> first | rfl | omega

theorem RoundTrip.m3Write4000 (a : Addr) (v : Byte) : RoundTrip.Statement (.m3Write4000 a v) := fun h var hv => by
  obtain rfl := RoundTrip.variant_eq hv
  simp only [Instr.WellFormed, Instr.wf, inRange_iff] at h
  refine (decode_cartWrite _ a _ []).trans ?_
  simp only [decodeCartWrite, loByte_setWidth]
  split_ifs <;> first | rfl | omega

theorem RoundTrip.m3Write6000 (a : Addr) (v : Byte) : RoundTrip.Statement (.m3Write6000 a v) := fun h var hv => by
  obtain rfl := RoundTrip.variant_eq hv
  simp only [Instr.WellFormed, Instr.wf, inRange_iff] at h
  refine (decode_cartWrite _ a _ []).trans ?_
  simp only [decodeCartWrite, loByte_setWidth]
  split_ifs <;> first | rfl | omega

theorem RoundTrip.m3Write8000 (a : Addr) (v : Byte) : RoundTrip.Statement (.m3Write8000 a v) := fun h var hv => by
  obtain rfl := RoundTrip.variant_eq hv
  simp only [Instr.WellFormed, Instr.wf, inRange_iff] at h
  refine (decode_cartWrite _ a _ []).trans ?_
  simp only [decodeCartWrite, loByte_setWidth]
  split_ifs <;> first | rfl | omega

theorem RoundTrip.m3ReadRam (o : RamOffset) : RoundTrip.Statement (.m3ReadRam o) := fun _ var hv => by
  obtain rfl := RoundTrip.variant_eq hv
  exact decode_cartReadRam _ o 0 []

theorem RoundTrip.m3WriteRam (o : RamOffset) (v : Byte) : RoundTrip.Statement (.m3WriteRam o v) := fun _ var hv => by
  obtain rfl := RoundTrip.variant_eq hv
  exact (decode_cartWriteRam _ o _ []).trans (by rw [loByte_setWidth]; rfl)

theorem RoundTrip.m5Read0000 (a : Addr) : RoundTrip.Statement (.m5Read0000 a) := fun h var hv => by
  obtain rfl := RoundTrip.variant_eq hv
  simp only [Instr.WellFormed, Instr.wf, inRange_iff] at h
  refine (decode_cartRead _ a 0 []).trans ?_
  simp only [decodeCartRead]
  split_ifs <;> first | rfl | omega

theorem RoundTrip.m5Read4000 (a : Addr) : RoundTrip.Statement (.m5Read4000 a) := fun h var hv => by
  obtain rfl := RoundTrip.variant_eq hv
  simp only [Instr.WellFormed, Instr.wf, inRange_iff] at h
  refine (decode_cartRead _ a 0 []).trans ?_
  simp only [decodeCartRead]
  split_ifs <;> first | rfl | omega

theorem RoundTrip.m5Read8000 (a : Addr) : RoundTrip.Statement (.m5Read8000 a) := fun h var hv => by
  obtain rfl := RoundTrip.variant_eq hv
  simp only [Instr.WellFormed, Instr.wf, inRange_iff] at h
  refine (decode_cartRead _ a 0 []).trans ?_
  simp only [decodeCartRead]
  split_ifs <;> first | rfl | omega

theorem RoundTrip.m5Write0000 (a : Addr) (v : Byte) : RoundTrip.Statement (.m5Write0000 a v) := fun h var hv => by
  obtain rfl := RoundTrip.variant_eq hv
  simp only [Instr.WellFormed, Instr.wf, inRange_iff] at h
  refine (decode_cartWrite _ a _ []).trans ?_
  simp only [decodeCartWrite, loByte_setWidth]
  split_ifs <;> first | rfl | omega

theorem RoundTrip.m5Write2000 (a : Addr) (v : Byte) : RoundTrip.Statement (.m5Write2000 a v) := fun h var hv => by
  obtain rfl := RoundTrip.variant_eq hv
  simp only [Instr.WellFormed, Instr.wf, inRange_iff] at h
  refine (decode_cartWrite _ a _ []).trans ?_
  simp only [decodeCartWrite, loByte_setWidth]
  split_ifs <;> first | rfl | omega

theorem RoundTrip.m5Write3000 (a : Addr) (v : Byte) : RoundTrip.Statement (.m5Write3000 a v) := fun h var hv => by
  obtain rfl := RoundTrip.variant_eq hv
  simp only [Instr.WellFormed, Instr.wf, inRange_iff] at h
  refine (decode_cartWrite _ a _ []).trans ?_
  simp only [decodeCartWrite, loByte_setWidth]
  split_ifs <;> first | rfl | omega

theorem RoundTrip.m5Write4000 (a : Addr) (v : Byte) : RoundTrip.Statement (.m5Write4000 a v) := fun h var hv => by
  obtain rfl := RoundTrip.variant_eq hv
  simp only [Instr.WellFormed, Instr.wf, inRange_iff] at h
  refine (decode_cartWrite _ a _ []).trans ?_
  simp only [decodeCartWrite, loByte_setWidth]
  split_ifs <;> first | rfl | omega

theorem RoundTrip.m5Write6000 (a : Addr) (v : Byte) : RoundTrip.Statement (.m5Write6000 a v) := fun h var hv => by
  obtain rfl := RoundTrip.variant_eq hv
  simp only [Instr.WellFormed, Instr.wf, inRange_iff] at h
  refine (decode_cartWrite _ a _ []).trans ?_
  simp only [decodeCartWrite, loByte_setWidth]
  split_ifs <;> first | rfl | omega

theorem RoundTrip.m5ReadRam (o : RamOffset) : RoundTrip.Statement (.m5ReadRam o) := fun _ var hv => by
  obtain rfl := RoundTrip.variant_eq hv
  exact decode_cartReadRam _ o 0 []

theorem RoundTrip.m5WriteRam (o : RamOffset) (v : Byte) : RoundTrip.Statement (.m5WriteRam o v) := fun _ var hv => by
  obtain rfl := RoundTrip.variant_eq hv
  exact (decode_cartWriteRam _ o _ []).trans (by rw [loByte_setWidth]; rfl)

theorem RoundTrip.get8A : RoundTrip.Statement .get8A := fun _ _ _ => rfl

theorem RoundTrip.get8B : RoundTrip.Statement .get8B := fun _ _ _ => rfl

theorem RoundTrip.get8C : RoundTrip.Statement .get8C := fun _ _ _ => rfl

theorem RoundTrip.get8D : RoundTrip.Statement .get8D := fun _ _ _ => rfl

theorem RoundTrip.get8E : RoundTrip.Statement .get8E := fun _ _ _ => rfl

theorem RoundTrip.get8H : RoundTrip.Statement .get8H := fun _ _ _ => rfl

theorem RoundTrip.get8L : RoundTrip.Statement .get8L := fun _ _ _ => rfl

theorem RoundTrip.set8A (v : Byte) : RoundTrip.Statement (.set8A v) := fun _ _ _ => congrArg (fun x => Except.ok (Instr.set8A x)) (loByte_setWidth v)

theorem RoundTrip.set8B (v : Byte) : RoundTrip.Statement (.set8B v) := fun _ _ _ => congrArg (fun x => Except.ok (Instr.set8B x)) (loByte_setWidth v)

theorem RoundTrip.set8C (v : Byte) : RoundTrip.Statement (.set8C v) := fun _ _ _ => congrArg (fun x => Except.ok (Instr.set8C x)) (loByte_setWidth v)

theorem RoundTrip.set8D (v : Byte) : RoundTrip.Statement (.set8D v) := fun _ _ _ => congrArg (fun x => Except.ok (Instr.set8D x)) (loByte_setWidth v)

theorem RoundTrip.set8E (v : Byte) : RoundTrip.Statement (.set8E v) := fun _ _ _ => congrArg (fun x => Except.ok (Instr.set8E x)) (loByte_setWidth v)

theorem RoundTrip.set8H (v : Byte) : RoundTrip.Statement (.set8H v) := fun _ _ _ => congrArg (fun x => Except.ok (Instr.set8H x)) (loByte_setWidth v)

theorem RoundTrip.set8L (v : Byte) : RoundTrip.Statement (.set8L v) := fun _ _ _ => congrArg (fun x => Except.ok (Instr.set8L x)) (loByte_setWidth v)

theorem RoundTrip.get16Af : RoundTrip.Statement .get16Af := fun _ _ _ => rfl

theorem RoundTrip.get16Bc : RoundTrip.Statement .get16Bc := fun _ _ _ => rfl

theorem RoundTrip.get16De : RoundTrip.Statement .get16De := fun _ _ _ => rfl

theorem RoundTrip.get16Hl : RoundTrip.Statement .get16Hl := fun _ _ _ => rfl

theorem RoundTrip.get16Sp : RoundTrip.Statement .get16Sp := fun _ _ _ => rfl

theorem RoundTrip.get16Pc : RoundTrip.Statement .get16Pc := fun _ _ _ => rfl

theorem RoundTrip.set16Af (v : Word) : RoundTrip.Statement (.set16Af v) := fun _ _ _ => rfl

theorem RoundTrip.set16Bc (v : Word) : RoundTrip.Statement (.set16Bc v) := fun _ _ _ => rfl

theorem RoundTrip.set16De (v : Word) : RoundTrip.Statement (.set16De v) := fun _ _ _ => rfl

theorem RoundTrip.set16Hl (v : Word) : RoundTrip.Statement (.set16Hl v) := fun _ _ _ => rfl

theorem RoundTrip.set16Sp (v : Word) : RoundTrip.Statement (.set16Sp v) := fun _ _ _ => rfl

theorem RoundTrip.set16Pc (v : Word) : RoundTrip.Statement (.set16Pc v) := fun _ _ _ => rfl

theorem RoundTrip.getfZ : RoundTrip.Statement .getfZ := fun _ _ _ => rfl

theorem RoundTrip.getfN : RoundTrip.Statement .getfN := fun _ _ _ => rfl

theorem RoundTrip.getfH : RoundTrip.Statement .getfH := fun _ _ _ => rfl

theorem RoundTrip.getfC : RoundTrip.Statement .getfC := fun _ _ _ => rfl

theorem RoundTrip.setfZ (b : Bool) : RoundTrip.Statement (.setfZ b) := fun _ _ _ => congrArg (fun x => Except.ok (Instr.setfZ x)) (getLsbD_ofBool_setWidth b)

theorem RoundTrip.setfN (b : Bool) : RoundTrip.Statement (.setfN b) := fun _ _ _ => congrArg (fun x => Except.ok (Instr.setfN x)) (getLsbD_ofBool_setWidth b)

theorem RoundTrip.setfH (b : Bool) : RoundTrip.Statement (.setfH b) := fun _ _ _ => congrArg (fun x => Except.ok (Instr.setfH x)) (getLsbD_ofBool_setWidth b)

theorem RoundTrip.setfC (b : Bool) : RoundTrip.Statement (.setfC b) := fun _ _ _ => congrArg (fun x => Except.ok (Instr.setfC x)) (getLsbD_ofBool_setWidth b)

theorem RoundTrip.reset : RoundTrip.Statement .reset := fun _ _ _ => rfl

theorem RoundTrip.loadrom (image : List Byte) (code : Byte) : RoundTrip.Statement (.loadrom image code) := fun _ _ _ => congrArg (fun x => Except.ok (Instr.loadrom image x)) (loByte_setWidth code)

end Sys2Proof.Laws
end

