-- ==== Sys2Proof/Tests/Slice0.lean ====
section
/-! SUPPORT. The model's own tests. Every expected value is from the spec's tables or from 95_test_vectors.md, the
vector named in the docstring; every test is one step. Then one witness for the hypotheses of each statement. -/

namespace Sys2Proof.Tests

open Sys2Proof Sys2Proof.Machine

/-! ## WellFormed refuses an address outside its row's range -/

theorem test_wellFormed_refuses_bus_reads : ([.rRom 0x8000, .rVram 0x7FFF, .rVram 0xA000, .rCram 0x9FFF, .rCram 0xC000, .rWram 0xBFFF,
    .rWram 0xE000, .rEcho 0xDFFF, .rEcho 0xFE00, .rOam 0xFDFF, .rOam 0xFEA0, .rUnmapped 0xFE9F,
    .rUnmapped 0xFF00, .rIo 0xFEFF, .rIo 0xFF80, .rHram 0xFF7F, .rHram 0xFFFF, .rIe 0xFFFE] : List Instr).all (fun i => !i.wf) = true := by decide

theorem test_wellFormed_refuses_bus_writes : ([.wRom 0x8000 0, .wVram 0x7FFF 0, .wVram 0xA000 0, .wCram 0x9FFF 0, .wCram 0xC000 0, .wWram 0xBFFF 0,
    .wWram 0xE000 0, .wEcho 0xDFFF 0, .wEcho 0xFE00 0, .wOam 0xFDFF 0, .wOam 0xFEA0 0, .wUnmapped 0xFE9F 0,
    .wUnmapped 0xFF00 0, .wIo 0xFEFF 0, .wIo 0xFF80 0, .wHram 0xFF7F 0, .wHram 0xFFFF 0, .wIe 0xFFFE 0] : List Instr).all (fun i => !i.wf) = true := by decide

theorem test_wellFormed_refuses_nb : ([.nbRead0000 0x8000, .nbRead8000 0x7FFF] : List Instr).all (fun i => !i.wf) = true := by decide

theorem test_wellFormed_refuses_lb : ([.lbRead0000 0x4000, .lbRead4000 0x3FFF, .lbRead4000 0x8000, .lbRead8000 0x7FFF, .lbWrite0000 0x2000 0, .lbWrite2000 0x1FFF 0,
    .lbWrite2000 0x4000 0, .lbWrite4000 0x3FFF 0, .lbWrite4000 0x6000 0, .lbWrite6000 0x5FFF 0, .lbWrite6000 0x8000 0, .lbWrite8000 0x7FFF 0] : List Instr).all (fun i => !i.wf) = true := by decide

theorem test_wellFormed_refuses_m2 : ([.m2Read0000 0x4000, .m2Read4000 0x3FFF, .m2Read4000 0x8000, .m2Read8000 0x7FFF, .m2WriteA8Clear 0x4000 0, .m2WriteA8Clear 0x2100 0,
    .m2WriteA8Set 0x4000 0, .m2WriteA8Set 0x2000 0, .m2Write4000 0x3FFF 0] : List Instr).all (fun i => !i.wf) = true := by decide

theorem test_wellFormed_refuses_m3 : ([.m3Read0000 0x4000, .m3Read4000 0x3FFF, .m3Read4000 0x8000, .m3Read8000 0x7FFF, .m3Write0000 0x2000 0, .m3Write2000 0x1FFF 0,
    .m3Write2000 0x4000 0, .m3Write4000 0x3FFF 0, .m3Write4000 0x6000 0, .m3Write6000 0x5FFF 0, .m3Write6000 0x8000 0, .m3Write8000 0x7FFF 0] : List Instr).all (fun i => !i.wf) = true := by decide

theorem test_wellFormed_refuses_m5 : ([.m5Read0000 0x4000, .m5Read4000 0x3FFF, .m5Read4000 0x8000, .m5Read8000 0x7FFF, .m5Write0000 0x2000 0, .m5Write2000 0x1FFF 0,
    .m5Write2000 0x3000 0, .m5Write3000 0x2FFF 0, .m5Write3000 0x4000 0, .m5Write4000 0x3FFF 0, .m5Write4000 0x6000 0, .m5Write6000 0x5FFF 0] : List Instr).all (fun i => !i.wf) = true := by decide

/-! ## Decoding (30_encoding.md): words written from the format tables, with both ends of each range -/

/-- The instruction the decoder reads, if it does not refuse. -/
def dec (var : Variant) (word : ReqWord) (data : Nat) : Option Instr :=
  match decode var { word := word, data := BitVec.ofNat 16 data, image := [] } with
  | .ok i => some i
  | .error _ => none

/-- The BUS word `q` with data operand `data`. -/
def bus (q data : Nat) : Option Instr := dec .linear (.bus (BitVec.ofNat 18 q)) data
/-- The CART word `c` with data operand `data`, while `var` is active. -/
def cart (var : Variant) (c data : Nat) : Option Instr := dec var (.cart (BitVec.ofNat 18 c)) data
/-- The REG word `r` with data operand `data`. -/
def reg (r data : Nat) : Option Instr := dec .linear (.reg (BitVec.ofNat 8 r)) data

/-- R101, R109: W = 0, D = 0. -/
theorem test_decode_bus_reads :
    [0x00000, 0x07FFF, 0x08000, 0x09FFF, 0x0A000, 0x0BFFF, 0x0C000, 0x0DFFF, 0x0E000, 0x0FDFF,
    0x0FE00, 0x0FE9F, 0x0FEA0, 0x0FEFF, 0x0FF00, 0x0FF7F, 0x0FF80, 0x0FFFE, 0x0FFFF].map (fun n => bus n 0xBEEF) =
     [some (.rRom 0x0000), some (.rRom 0x7FFF), some (.rVram 0x8000), some (.rVram 0x9FFF),
      some (.rCram 0xA000), some (.rCram 0xBFFF), some (.rWram 0xC000), some (.rWram 0xDFFF),
      some (.rEcho 0xE000), some (.rEcho 0xFDFF), some (.rOam 0xFE00), some (.rOam 0xFE9F),
      some (.rUnmapped 0xFEA0), some (.rUnmapped 0xFEFF), some (.rIo 0xFF00), some (.rIo 0xFF7F),
      some (.rHram 0xFF80), some (.rHram 0xFFFE), some (.rIe 0xFFFF)] := by decide

/-- R101, R107, R109: W = 0, D = 1, the byte is `v[7:0]` of the data operand. -/
theorem test_decode_bus_writes :
    [0x10000, 0x17FFF, 0x18000, 0x19FFF, 0x1A000, 0x1BFFF, 0x1C000, 0x1DFFF, 0x1E000, 0x1FDFF,
    0x1FE00, 0x1FE9F, 0x1FEA0, 0x1FEFF, 0x1FF00, 0x1FF7F, 0x1FF80, 0x1FFFE, 0x1FFFF].map (fun n => bus n 0xBEEF) =
     [some (.wRom 0x0000 0xEF), some (.wRom 0x7FFF 0xEF), some (.wVram 0x8000 0xEF), some (.wVram 0x9FFF 0xEF),
      some (.wCram 0xA000 0xEF), some (.wCram 0xBFFF 0xEF), some (.wWram 0xC000 0xEF), some (.wWram 0xDFFF 0xEF),
      some (.wEcho 0xE000 0xEF), some (.wEcho 0xFDFF 0xEF), some (.wOam 0xFE00 0xEF), some (.wOam 0xFE9F 0xEF),
      some (.wUnmapped 0xFEA0 0xEF), some (.wUnmapped 0xFEFF 0xEF), some (.wIo 0xFF00 0xEF), some (.wIo 0xFF7F 0xEF),
      some (.wHram 0xFF80 0xEF), some (.wHram 0xFFFE 0xEF), some (.wIe 0xFFFF 0xEF)] := by decide

/-- R101: W = 1. -/
theorem test_decode_bus_words :
    [0x20000, 0x2FFFF, 0x30000, 0x35FFF, 0x3FFFF].map (fun n => bus n 0xBEEF) =
     [some (.rdw 0x0000), some (.rdw 0xFFFF), some (.wrw 0x0000 0xBEEF), some (.wrw 0x5FFF 0xBEEF),
      some (.wrw 0xFFFF 0xBEEF)] := by decide

/-- R102, R110, the rows of noBanking. -/
theorem test_decode_cart_nb :
    [0x00000, 0x07FFF, 0x08000, 0x0FFFF, 0x10000, 0x1FFFF, 0x20000, 0x21FFF, 0x30000, 0x31FFF].map (fun n => cart .noBanking n 0xBEEF) =
     [some (.nbRead0000 0x0000), some (.nbRead0000 0x7FFF), some (.nbRead8000 0x8000), some (.nbRead8000 0xFFFF),
      some (.nbWrite0000 0x0000 0xEF), some (.nbWrite0000 0xFFFF 0xEF), some (.nbReadRam 0x0000), some (.nbReadRam 0x1FFF),
      some (.nbWriteRam 0x0000 0xEF), some (.nbWriteRam 0x1FFF 0xEF)] := by decide

/-- R102, R110, the rows of linear. -/
theorem test_decode_cart_lb :
    [0x00000, 0x03FFF, 0x04000, 0x07FFF, 0x08000, 0x0FFFF, 0x10000, 0x11FFF, 0x12000, 0x13FFF,
    0x14000, 0x15FFF, 0x16000, 0x17FFF, 0x18000, 0x1FFFF, 0x20000, 0x21FFF, 0x30000, 0x31FFF].map (fun n => cart .linear n 0xBEEF) =
     [some (.lbRead0000 0x0000), some (.lbRead0000 0x3FFF), some (.lbRead4000 0x4000), some (.lbRead4000 0x7FFF),
      some (.lbRead8000 0x8000), some (.lbRead8000 0xFFFF), some (.lbWrite0000 0x0000 0xEF), some (.lbWrite0000 0x1FFF 0xEF),
      some (.lbWrite2000 0x2000 0xEF), some (.lbWrite2000 0x3FFF 0xEF), some (.lbWrite4000 0x4000 0xEF), some (.lbWrite4000 0x5FFF 0xEF),
      some (.lbWrite6000 0x6000 0xEF), some (.lbWrite6000 0x7FFF 0xEF), some (.lbWrite8000 0x8000 0xEF), some (.lbWrite8000 0xFFFF 0xEF),
      some (.lbReadRam 0x0000), some (.lbReadRam 0x1FFF), some (.lbWriteRam 0x0000 0xEF), some (.lbWriteRam 0x1FFF 0xEF)] := by decide

/-- R102, R110, the rows of mbc2. -/
theorem test_decode_cart_m2 :
    [0x00000, 0x03FFF, 0x04000, 0x07FFF, 0x08000, 0x0FFFF, 0x10000, 0x13EFF, 0x10100, 0x13FFF,
    0x14000, 0x1FFFF, 0x20000, 0x21FFF, 0x30000, 0x31FFF].map (fun n => cart .mbc2 n 0xBEEF) =
     [some (.m2Read0000 0x0000), some (.m2Read0000 0x3FFF), some (.m2Read4000 0x4000), some (.m2Read4000 0x7FFF),
      some (.m2Read8000 0x8000), some (.m2Read8000 0xFFFF), some (.m2WriteA8Clear 0x0000 0xEF), some (.m2WriteA8Clear 0x3EFF 0xEF),
      some (.m2WriteA8Set 0x0100 0xEF), some (.m2WriteA8Set 0x3FFF 0xEF), some (.m2Write4000 0x4000 0xEF), some (.m2Write4000 0xFFFF 0xEF),
      some (.m2ReadRam 0x0000), some (.m2ReadRam 0x1FFF), some (.m2WriteRam 0x0000 0xEF), some (.m2WriteRam 0x1FFF 0xEF)] := by decide

/-- R102, R110, the rows of mbc3. -/
theorem test_decode_cart_m3 :
    [0x00000, 0x03FFF, 0x04000, 0x07FFF, 0x08000, 0x0FFFF, 0x10000, 0x11FFF, 0x12000, 0x13FFF,
    0x14000, 0x15FFF, 0x16000, 0x17FFF, 0x18000, 0x1FFFF, 0x20000, 0x21FFF, 0x30000, 0x31FFF].map (fun n => cart .mbc3 n 0xBEEF) =
     [some (.m3Read0000 0x0000), some (.m3Read0000 0x3FFF), some (.m3Read4000 0x4000), some (.m3Read4000 0x7FFF),
      some (.m3Read8000 0x8000), some (.m3Read8000 0xFFFF), some (.m3Write0000 0x0000 0xEF), some (.m3Write0000 0x1FFF 0xEF),
      some (.m3Write2000 0x2000 0xEF), some (.m3Write2000 0x3FFF 0xEF), some (.m3Write4000 0x4000 0xEF), some (.m3Write4000 0x5FFF 0xEF),
      some (.m3Write6000 0x6000 0xEF), some (.m3Write6000 0x7FFF 0xEF), some (.m3Write8000 0x8000 0xEF), some (.m3Write8000 0xFFFF 0xEF),
      some (.m3ReadRam 0x0000), some (.m3ReadRam 0x1FFF), some (.m3WriteRam 0x0000 0xEF), some (.m3WriteRam 0x1FFF 0xEF)] := by decide

/-- R102, R110, the rows of mbc5. -/
theorem test_decode_cart_m5 :
    [0x00000, 0x03FFF, 0x04000, 0x07FFF, 0x08000, 0x0FFFF, 0x10000, 0x11FFF, 0x12000, 0x12FFF,
    0x13000, 0x13FFF, 0x14000, 0x15FFF, 0x16000, 0x1FFFF, 0x20000, 0x21FFF, 0x30000, 0x31FFF].map (fun n => cart .mbc5 n 0xBEEF) =
     [some (.m5Read0000 0x0000), some (.m5Read0000 0x3FFF), some (.m5Read4000 0x4000), some (.m5Read4000 0x7FFF),
      some (.m5Read8000 0x8000), some (.m5Read8000 0xFFFF), some (.m5Write0000 0x0000 0xEF), some (.m5Write0000 0x1FFF 0xEF),
      some (.m5Write2000 0x2000 0xEF), some (.m5Write2000 0x2FFF 0xEF), some (.m5Write3000 0x3000 0xEF), some (.m5Write3000 0x3FFF 0xEF),
      some (.m5Write4000 0x4000 0xEF), some (.m5Write4000 0x5FFF 0xEF), some (.m5Write6000 0x6000 0xEF), some (.m5Write6000 0xFFFF 0xEF),
      some (.m5ReadRam 0x0000), some (.m5ReadRam 0x1FFF), some (.m5WriteRam 0x0000 0xEF), some (.m5WriteRam 0x1FFF 0xEF)] := by decide

/-- R104: D = 0. -/
theorem test_decode_reg_get :
    [0x00, 0x01, 0x02, 0x03, 0x04, 0x05, 0x06, 0x10, 0x11, 0x12,
    0x13, 0x14, 0x15, 0x20, 0x21, 0x22, 0x23].map (fun n => reg n 0) =
     [some (.get8A), some (.get8B), some (.get8C), some (.get8D),
      some (.get8E), some (.get8H), some (.get8L), some (.get16Af),
      some (.get16Bc), some (.get16De), some (.get16Hl), some (.get16Sp),
      some (.get16Pc), some (.getfZ), some (.getfN), some (.getfH),
      some (.getfC)] := by decide

/-- R104, R107: D = 1; SET8 takes `data[7:0]`, SET16 `data[15:0]`, SETF `data[0]`. -/
theorem test_decode_reg_set :
    [0x80, 0x81, 0x82, 0x83, 0x84, 0x85, 0x86, 0x90, 0x91, 0x92,
    0x93, 0x94, 0x95, 0xA0, 0xA1, 0xA2, 0xA3].map (fun n => reg n 0xBEEF) =
     [some (.set8A 0xEF), some (.set8B 0xEF), some (.set8C 0xEF), some (.set8D 0xEF),
      some (.set8E 0xEF), some (.set8H 0xEF), some (.set8L 0xEF), some (.set16Af 0xBEEF),
      some (.set16Bc 0xBEEF), some (.set16De 0xBEEF), some (.set16Hl 0xBEEF), some (.set16Sp 0xBEEF),
      some (.set16Pc 0xBEEF), some (.setfZ true), some (.setfN true), some (.setfH true),
      some (.setfC true)] := by decide

/-- R106. -/
theorem test_decode_ctl :
    dec .noBanking (.ctl 0x00) 0 = some .reset ∧ dec .noBanking (.ctl 0x01) 0x121B = some (.loadrom [] 0x1B) := by decide

/-- V-CTL-8, and the other ends of the reserved ranges (R103, R105, R106). -/
theorem test_decode_reserved :
    [0x07, 0x0F, 0x16, 0x1F, 0x24, 0x2F, 0x30, 0x7F, 0x87, 0x96, 0xA4, 0xB0, 0xFF].all (fun r => reg r 0 == none) = true ∧
    [0x22000, 0x2FFFF, 0x32000, 0x3FFFF].all (fun c => cart .linear c 0 == none) = true ∧
    [0x02, 0xFF].all (fun k => dec .linear (.ctl (BitVec.ofNat 8 k)) 0 == none) = true := by decide

/-! ## Single steps -/

/-- The state after an outcome; the state before it when there is none. -/
def after (s : State) (o : Out) : State :=
  match o with
  | .next t => t
  | .fault _ => s
  | .refused _ => s

/-- One step of `s` with one request waiting. -/
def run (s : State) (word : ReqWord) (data : Nat) : Out :=
  step (s.withPending [{ word := word, data := BitVec.ofNat 16 data, image := [] }])

/-- What the step hands its caller. -/
def out (s : State) (word : ReqWord) (data : Nat) : Option Response :=
  match run s word data with
  | .next t => some t.resp
  | .fault _ => none
  | .refused _ => none

/-- The state after the step. -/
def then_ (s : State) (word : ReqWord) (data : Nat) : State := after s (run s word data)

/-- The BUS words of 30_encoding.md R114. -/
def rd (a : Nat) : ReqWord := .bus (BitVec.ofNat 18 a)
/-- `WR`. -/
def wr (a : Nat) : ReqWord := .bus (BitVec.ofNat 18 (0x10000 + a))
/-- `RDW`. -/
def rdw (a : Nat) : ReqWord := .bus (BitVec.ofNat 18 (0x20000 + a))
/-- `WRW`. -/
def wrw (a : Nat) : ReqWord := .bus (BitVec.ofNat 18 (0x30000 + a))

/-- `State.reset` with another memory map. -/
def withCart (c : Controller) : State := { State.reset with mm := { State.reset.mm with cart := some c } }
/-- An image of `len` bytes, 0x00 but for one byte in bank 1, one in bank 3 and one in bank 0x41. -/
def img (len : Nat) : Image := { len := len, cells := [(0x0001, 0x22), (0x4000, 0x01), (0xC000, 0x03), (0x104000, 0x41)] }
/-- A NoBanking controller. -/
def nb : NoBanking := { rom := [(0x0000, 0x11), (0x7FFF, 0x01)], ram := [(0x0010, 0x42)] }
/-- A LinearBanking controller with RAM enabled and RAM bank 3 selected. -/
def lb : LinearBanking :=
  { rom := img 0x200000, ram := [(0x0000, 0x34), (0x7FFF, 0x99)], romBankSelect := 0x01, ramBankSelect := 3, ramEnabled := true, bankingMode := 1 }
/-- An MBC2 controller with RAM enabled. -/
def m2 : Mbc2 := { rom := img 0x40000, ram := [(0x005, 0x7)], romBank := 3, ramEnabled := true }
/-- An MBC3 controller with RAM enabled and RAM bank 2 selected. -/
def m3 : Mbc3 := { rom := img 0x200000, ram := [(0x4000, 0x22)], romBank := 0x41, select := 0x02, ramEnabled := true }
/-- An MBC5 controller with RAM enabled and RAM bank 15 selected. -/
def m5 : Mbc5 := { rom := img 0x404000, ram := [(0x1FFFF, 0x5F)], romBankLo := 0x41, romBankHi := 0, ramBank := 0x0F, ramEnabled := true }
/-- LinearBanking over a two-byte image, in the debug build (V-LB-13). -/
def debugged : State :=
  { withCart (.linear { lb with rom := { len := 2, cells := [(0x0001, 0x22)] } }) with
    params := { Params.default with indexViolation := .fault } }
/-- The same in the production build (V-LB-11). -/
def short : State := { debugged with params := .default }
/-- An instance that refuses the extended variants (V-CTL-7). -/
def refusing : State := { State.reset with params := { Params.default with extendedMbc := .refuse } }
/-- `State.reset` with a register file of distinct values. -/
def regs : State :=
  { State.reset with
    rf := { a := 0x34, b := 0x12, c := 0x13, d := 0xAB, e := 0xCD, h := 0xC0, l := 0x99, zf := false, nf := true, hf := false, cf := true,
            sp := 0xFFFE, pc := 0x0100 } }

/-- V-RF-5, V-RF-7, V-RF-9, V-RF-10: the GETs. -/
theorem test_gets :
    out regs (.reg 0x00) 0 = some (.byte 0x34) ∧ out regs (.reg 0x05) 0 = some (.byte 0xC0) ∧ out regs (.reg 0x10) 0 = some (.word 0x3450) ∧
    out regs (.reg 0x12) 0 = some (.word 0xABCD) ∧ out regs (.reg 0x14) 0 = some (.word 0xFFFE) ∧
    out regs (.reg 0x15) 0 = some (.word 0x0100) ∧ out regs (.reg 0x21) 0 = some (.flag true) ∧ out regs (.reg 0x22) 0 = some (.flag false) := by
  decide

/-- V-RF-1 to V-RF-3: SET16 af drops bits 3:0. -/
theorem test_set_af :
    (then_ regs (.reg 0x90) 0xFFFF).rf.af = 0xFFF0 ∧ (then_ regs (.reg 0x90) 0x000F).rf.af = 0x0000 ∧
    (then_ regs (.reg 0x90) 0xA5A5).rf = { regs.rf with a := 0xA5, zf := true, nf := false, hf := true, cf := false } := by decide

/-- V-RF-6, V-RF-8, V-RF-11: SET16 of a pair, of `pc` and of `sp`. -/
theorem test_set16 :
    (then_ regs (.reg 0x91) 0x1234).rf = { regs.rf with b := 0x12, c := 0x34 } ∧ (then_ regs (.reg 0x92) 0x5678).rf = { regs.rf with d := 0x56, e := 0x78 } ∧
    (then_ regs (.reg 0x93) 0xFF00).rf = { regs.rf with h := 0xFF, l := 0x00 } ∧ (then_ regs (.reg 0x95) 0xFFFF).rf = { regs.rf with pc := 0xFFFF } ∧
    (then_ regs (.reg 0x94) 0x0001).rf = { regs.rf with sp := 0x0001 } := by decide

/-- V-RF-5, V-RF-4, V-RF-12: SET8 keeps the flags, SETF writes one flag. -/
theorem test_set8_setf :
    (then_ regs (.reg 0x80) 0x77).rf = { regs.rf with a := 0x77 } ∧ (then_ regs (.reg 0x86) 0x77).rf = { regs.rf with l := 0x77 } ∧
    (then_ regs (.reg 0xA0) 1).rf = { regs.rf with zf := true } ∧ (then_ regs (.reg 0xA1) 0).rf = { regs.rf with nf := false } := by decide

/-- V-MM-2, V-MM-3, V-W-2, V-W-5: fixed regions and words over the I/O table. -/
theorem test_fixed_reads :
    out .reset (rd 0xFEA0) 0 = some (.byte 0xFF) ∧ out .reset (rd 0xFEFF) 0 = some (.byte 0xFF) ∧ out .reset (rd 0xFF10) 0 = some (.byte 0x80) ∧
    out .reset (rd 0xFF40) 0 = some (.byte 0x91) ∧ out .reset (rd 0xFF7F) 0 = some (.byte 0x00) ∧ out .reset (rd 0xFFFF) 0 = some (.byte 0x00) ∧
    out .reset (rdw 0xFF3F) 0 = some (.word 0x9100) ∧ out .reset (rdw 0xFF40) 0 = some (.word 0x0091) ∧
    out .reset (rdw 0xFE9F) 0 = some (.word 0xFF00) ∧ out .reset (rdw 0xFEFF) 0 = some (.word 0x00FF) := by decide

/-- V-MM-4, V-MM-5, V-MM-7 to V-MM-9: fixed-region writes, the echo in both directions, no effect at an unmapped address. -/
theorem test_fixed_writes :
    (then_ .reset (wr 0x9FFF) 0x22).mm.vram = [(0x1FFF, 0x22)] ∧ (then_ .reset (wr 0xC000) 0x33).mm.wram = [(0x0000, 0x33)] ∧
    (then_ .reset (wr 0xFDFF) 0x44).mm.wram = [(0x1DFF, 0x44)] ∧ (then_ .reset (wr 0xFE9F) 0x66).mm.oam = [(0x9F, 0x66)] ∧
    (then_ .reset (wr 0xFEA0) 0x77).mm = State.reset.mm ∧ (then_ .reset (wr 0xFF7F) 0x88).mm.io = [(0x7F, 0x88)] ∧
    (then_ .reset (wr 0xFFFE) 0xAA).mm.hram = [(0x7E, 0xAA)] ∧ (then_ .reset (wr 0xFFFF) 0xE0).mm.ie = 0xE0 := by decide

/-- E8: a WRAM byte seen through the echo. -/
theorem test_echo : out { State.reset with mm := { State.reset.mm with wram := [(0x0010, 0x7A)] } } (rd 0xE010) 0 = some (.byte 0x7A) := by decide

/-- V-W-1, V-W-3, V-W-6: word writes, low byte at the lower address. -/
theorem test_word_writes :
    (then_ .reset (wrw 0xC100) 0xABCD).mm.wram = [(0x0100, 0xCD), (0x0101, 0xAB)] ∧
    (then_ .reset (wrw 0xFFFE) 0x1234).mm = { State.reset.mm with hram := [(0x7E, 0x34)], ie := 0x12 } ∧
    (then_ .reset (wrw 0xDFFF) 0x0102).mm.wram = [(0x0000, 0x01), (0x1FFF, 0x02)] := by decide

/-- V-W-4: a word at 0xFFFF wraps to 0x0000, where NoBanking ignores the write. -/
theorem test_word_wrap :
    (then_ (withCart (.noBanking nb)) (wrw 0xFFFF) 0xBEEF).mm = { (withCart (.noBanking nb)).mm with ie := 0xEF } ∧
    out (withCart (.noBanking nb)) (rdw 0xFFFF) 0 = some (.word 0x1100) := by decide

/-- V-CTL-1: the pre-load controller serves `staging` and `xram`. -/
theorem test_preload :
    out .reset (rd 0x4000) 0 = some (.byte 0x00) ∧ (then_ .reset (wr 0x2000) 0x05).mm = State.reset.mm ∧
    (then_ .reset (wr 0xA000) 0x12).mm.xram = [(0x0000, 0x12)] := by decide

/-- V-NB-1, V-NB-3, V-NB-4, V-NB-7, through the CART port and through the BUS. -/
theorem test_nb :
    out (withCart (.noBanking nb)) (rd 0x7FFF) 0 = some (.byte 0x01) ∧ out (withCart (.noBanking nb)) (.cart 0x08000) 0 = some (.byte 0xFF) ∧
    out (withCart (.noBanking nb)) (.cart 0x20010) 0 = some (.byte 0x42) ∧ (then_ (withCart (.noBanking nb)) (.cart 0x12000) 0x05).mm.cart = some (.noBanking nb) ∧
    (then_ (withCart (.noBanking nb)) (wr 0xBFFF) 0x43).mm.cart = some (.noBanking { nb with ram := [(0x0010, 0x42), (0x1FFF, 0x43)] }) := by decide

/-- V-LB-1, V-LB-3, V-LB-5: the effective ROM bank and the end of the image. -/
theorem test_lb_reads :
    out (withCart (.linear { lb with romBankSelect := 0x00 })) (rd 0x4000) 0 = some (.byte 0x01) ∧
    out (withCart (.linear { lb with romBankSelect := 0x40 })) (rd 0x4000) 0 = some (.byte 0x41) ∧
    out (withCart (.linear { lb with rom := img 0x80000, romBankSelect := 0x3F })) (rd 0x4000) 0 = some (.byte 0xFF) ∧
    out (withCart (.linear lb)) (rd 0x0001) 0 = some (.byte 0x22) ∧ out (withCart (.linear lb)) (.cart 0x08000) 0 = some (.byte 0xFF) := by decide

/-- V-LB-2, V-LB-4, V-LB-6, V-LB-7, V-LB-9: the control writes. -/
theorem test_lb_writes :
    (then_ (withCart (.linear lb)) (wr 0x2000) 0xE3).mm.cart = some (.linear { lb with romBankSelect := 0x03 }) ∧
    (then_ (withCart (.linear lb)) (wr 0x2000) 0x20).mm.cart = some (.linear { lb with romBankSelect := 0x01 }) ∧
    (then_ (withCart (.linear { lb with bankingMode := 0 })) (wr 0x4000) 0xFE).mm.cart = some (.linear { lb with bankingMode := 0, romBankSelect := 0x41 }) ∧
    (then_ (withCart (.linear lb)) (wr 0x5FFF) 0x02).mm.cart = some (.linear { lb with ramBankSelect := 2 }) ∧
    (then_ (withCart (.linear { lb with bankingMode := 0, romBankSelect := 0x62 })) (wr 0x6000) 0x03).mm.cart = some (.linear { lb with romBankSelect := 0x02 }) ∧
    (then_ (withCart (.linear lb)) (wr 0x1000) 0x0B).mm.cart = some (.linear { lb with ramEnabled := false }) ∧
    (then_ (withCart (.linear { lb with ramEnabled := false })) (wr 0x1FFF) 0xFA).mm.cart = some (.linear lb) := by decide

/-- V-LB-8, V-LB-10, P2: the RAM window. -/
theorem test_lb_ram :
    out (withCart (.linear lb)) (rd 0xBFFF) 0 = some (.byte 0x99) ∧ out (withCart (.linear { lb with bankingMode := 0 })) (rd 0xA000) 0 = some (.byte 0x34) ∧
    out (withCart (.linear { lb with ramEnabled := false })) (rd 0xA000) 0 = some (.byte 0xFF) := by decide

/-- V-LB-8, V-LB-10: writes of the RAM window. -/
theorem test_lb_ram_writes :
    (then_ (withCart (.linear lb)) (wr 0xBFFF) 0x22).mm.cart = some (.linear { lb with ram := [(0x0000, 0x34), (0x7FFF, 0x22)] }) ∧
    (then_ (withCart (.linear { lb with ramEnabled := false })) (wr 0xA000) 0x22).mm.cart = some (.linear { lb with ramEnabled := false }) := by decide

/-- V-LB-12: the low byte lands under mode 0, then the high byte sets mode 1 and clamps. -/
theorem test_lb_word_across_the_mode_register :
    (then_ (withCart (.linear { lb with bankingMode := 0, romBankSelect := 0x05, ramBankSelect := 0 })) (wrw 0x5FFF) 0x0103).mm.cart =
      some (.linear { lb with bankingMode := 1, romBankSelect := 0x05, ramBankSelect := 0 }) := by decide

/-- V-LB-11, V-LB-13, V-LB-14: a short image in both builds. -/
theorem test_short_image :
    out short (rd 0x0001) 0 = some (.byte 0x22) ∧ out short (rd 0x0002) 0 = some (.byte 0xFF) ∧ out short (rd 0x4000) 0 = some (.byte 0xFF) ∧
    out debugged (rd 0x0002) 0 = none ∧ out debugged (rd 0x4000) 0 = some (.byte 0xFF) := by decide

/-- V-LB-13: the fault and the index it records. -/
theorem test_fault : run debugged (rd 0x0002) 0 = .fault (.internalIndexViolation 0x0002) := rfl

/-- V-M2-1, V-M2-2, V-M2-4: MBC2 reads and control writes. -/
theorem test_m2 :
    out (withCart (.mbc2 m2)) (rd 0x4000) 0 = some (.byte 0x03) ∧ out (withCart (.mbc2 m2)) (rd 0x0001) 0 = some (.byte 0x22) ∧
    (then_ (withCart (.mbc2 m2)) (wr 0x2100) 0x10).mm.cart = some (.mbc2 { m2 with romBank := 1 }) ∧
    (then_ (withCart (.mbc2 m2)) (wr 0x0100) 0x0F).mm.cart = some (.mbc2 { m2 with romBank := 15 }) ∧
    (then_ (withCart (.mbc2 m2)) (wr 0x1EFF) 0x00).mm.cart = some (.mbc2 { m2 with ramEnabled := false }) ∧
    (then_ (withCart (.mbc2 m2)) (wr 0x4000) 0x0A).mm.cart = some (.mbc2 m2) := by decide

/-- V-M2-3: the 512 cells repeat, a write keeps the low nibble, and a read draws the upper nibble whatever it is. -/
theorem test_m2_ram :
    (then_ (withCart (.mbc2 m2)) (wr 0xBE06) 0xC9).mm.cart = some (.mbc2 { m2 with ram := [(0x005, 0x7), (0x006, 0x9)] }) ∧
    (then_ (withCart (.mbc2 m2)) (rd 0xA205) 0).draws = 1 ∧ out (withCart (.mbc2 { m2 with ramEnabled := false })) (rd 0xA005) 0 = some (.byte 0xFF) := by decide

/-- V-M2-3, the low nibble of the read. -/
theorem test_m2_ram_read : out (withCart (.mbc2 m2)) (rd 0xA205) 0 = some (.byte (Config.mbc2RamHigh 0 ++ 0x7#4)) := rfl

/-- V-M3-1: MBC3 reads and control writes. -/
theorem test_m3 :
    out (withCart (.mbc3 m3)) (rd 0x4000) 0 = some (.byte 0x41) ∧ (then_ (withCart (.mbc3 m3)) (wr 0x2000) 0x00).mm.cart = some (.mbc3 { m3 with romBank := 1 }) ∧
    (then_ (withCart (.mbc3 m3)) (wr 0x2000) 0xFF).mm.cart = some (.mbc3 { m3 with romBank := 0x7F }) ∧
    (then_ (withCart (.mbc3 m3)) (wr 0x2000) 0x20).mm.cart = some (.mbc3 { m3 with romBank := 0x20 }) ∧
    (then_ (withCart (.mbc3 m3)) (wr 0x5FFF) 0x08).mm.cart = some (.mbc3 { m3 with select := 0x08 }) ∧
    (then_ (withCart (.mbc3 m3)) (wr 0x6000) 0x01).mm.cart = some (.mbc3 m3) ∧ (then_ (withCart (.mbc3 m3)) (wr 0x0000) 0x00).mm.cart = some (.mbc3 { m3 with ramEnabled := false }) := by
  decide

/-- V-M3-2, V-M3-3: the RAM window by `select`. -/
theorem test_m3_ram :
    out (withCart (.mbc3 m3)) (rd 0xA000) 0 = some (.byte 0x22) ∧ out (withCart (.mbc3 { m3 with select := 0x04 })) (rd 0xA000) 0 = some (.byte 0xFF) ∧
    (then_ (withCart (.mbc3 { m3 with select := 0x0C })) (rd 0xA000) 0).draws = 1 ∧
    (then_ (withCart (.mbc3 { m3 with select := 0x08 })) (wr 0xA000) 0x3B).mm.cart = some (.mbc3 { m3 with select := 0x08 }) ∧
    (then_ (withCart (.mbc3 { m3 with select := 0x03 })) (wr 0xBFFF) 0x44).mm.cart = some (.mbc3 { m3 with select := 0x03, ram := [(0x4000, 0x22), (0x7FFF, 0x44)] }) := by decide

/-- V-M5-1, V-M5-2, V-M5-3: MBC5 reads and control writes. -/
theorem test_m5 :
    out (withCart (.mbc5 m5)) (rd 0x4000) 0 = some (.byte 0x41) ∧ out (withCart (.mbc5 { m5 with romBankLo := 0x00 })) (rd 0x4001) 0 = some (.byte 0x22) ∧
    out (withCart (.mbc5 { m5 with romBankLo := 0x01, romBankHi := 1 })) (rd 0x4000) 0 = some (.byte 0xFF) ∧
    (then_ (withCart (.mbc5 m5)) (wr 0x2000) 0x00).mm.cart = some (.mbc5 { m5 with romBankLo := 0x00 }) ∧
    (then_ (withCart (.mbc5 m5)) (wr 0x2FFF) 0xFE).mm.cart = some (.mbc5 { m5 with romBankLo := 0xFE }) ∧
    (then_ (withCart (.mbc5 m5)) (wr 0x3000) 0xFF).mm.cart = some (.mbc5 { m5 with romBankHi := 1 }) ∧
    (then_ (withCart (.mbc5 m5)) (wr 0x4000) 0x1E).mm.cart = some (.mbc5 { m5 with ramBank := 0x0E }) ∧
    (then_ (withCart (.mbc5 m5)) (wr 0x6000) 0x00).mm.cart = some (.mbc5 m5) ∧ (then_ (withCart (.mbc5 m5)) (wr 0x0000) 0x00).mm.cart = some (.mbc5 { m5 with ramEnabled := false }) := by
  decide

/-- V-M5-3, P5: the RAM window. -/
theorem test_m5_ram :
    out (withCart (.mbc5 m5)) (rd 0xBFFF) 0 = some (.byte 0x5F) ∧
    (then_ (withCart (.mbc5 m5)) (wr 0xA000) 0x5C).mm.cart = some (.mbc5 { m5 with ram := [(0x1E000, 0x5C), (0x1FFFF, 0x5F)] }) := by decide

/-- V-CTL-4, V-CTL-9: RESET clears the fixed regions and sets the I/O table, and keeps the controller and its RAM. -/
theorem test_reset :
    (then_ { withCart (.linear lb) with mm := { (withCart (.linear lb)).mm with vram := [(0, 0x01)], io := [(0x17, 0x55)], ie := 0x1F, staging := [(0, 0x11)] } } (.ctl 0x00) 0).mm =
      { State.reset.mm with cart := some (.linear lb), staging := [(0, 0x11)] } := by decide

/-- V-NB-1, V-NB-6: LOADROM zero-fills `staging` and copies the image. -/
theorem test_loadrom_nb :
    exec (.loadrom [0x11, 0x00, 0x33] 0x00) { State.reset with mm := { State.reset.mm with staging := [(1, 0xAA)] } } =
      .next { State.reset with
        mm := { State.reset.mm with staging := [(0, 0x11), (2, 0x33)], cart := some (.noBanking { rom := [(0, 0x11), (2, 0x33)], ram := [] }) }
        resp := .loaded none } := rfl

/-- V-CTL-3, V-CTL-6: the construction values of LinearBanking, whatever stood there before. -/
theorem test_loadrom_lb :
    (after debugged (exec (.loadrom [0x11, 0x22] 0x01) debugged)).mm.cart =
      some (.linear { rom := { len := 2, cells := [(0, 0x11), (1, 0x22)] }, ram := [], romBankSelect := 0x01, ramBankSelect := 0, ramEnabled := false, bankingMode := 0 }) := by
  decide

/-- V-CTL-10: the variant and the warning, by type code. -/
theorem test_loadrom_codes :
    [0x00, 0x01, 0x03, 0x04, 0x05, 0x06, 0x0E, 0x0F, 0x13, 0x14, 0x18, 0x19, 0x1E, 0x1F, 0xFF].map (fun c => selectVariant (BitVec.ofNat 8 c)) =
      [(.noBanking, false), (.linear, false), (.linear, false), (.noBanking, true), (.mbc2, false), (.mbc2, false), (.noBanking, true), (.mbc3, false),
       (.mbc3, false), (.noBanking, true), (.noBanking, true), (.mbc5, false), (.mbc5, false), (.noBanking, true), (.noBanking, true)] := by decide

/-- V-CTL-7, V-CTL-8: the two refusals a step can end in. -/
theorem test_refusals :
    run refusing (.ctl 0x01) 0x05 = .refused (.unmodelledVariant 0x05) ∧ run .reset (.reg 0x07) 0 = .refused (.reservedRequest (.reg 0x07)) ∧
    run .reset (.cart 0x22000) 0 = .refused (.reservedRequest (.cart 0x22000)) ∧ run .reset (.ctl 0x02) 0 = .refused (.reservedRequest (.ctl 0x02)) :=
  ⟨rfl, rfl, rfl, rfl⟩

/-- The host's two entries agree: a table word is decoded and run as the first request after reset. -/
theorem test_table_word :
    decodeTableWord 24 0x1C010 = some (.wWram 0xC010 0x00) ∧ decodeTableWord 8 0x14 = some .get16Sp ∧ decodeTableWord 8 0x07 = none ∧
    after .reset (step (State.reset.withFetchWord 24 0x0FF40)) = { State.reset with resp := .byte 0x91 } := by decide

/-! ## A concrete state and operands that meet the hypotheses of each statement -/

/-- DecodeInvertsEncode: a BUS row, which every variant has, and a row of each variant. -/
theorem witness_DecodeInvertsEncode :
    ((Instr.rEcho 0xFDFF).WellFormed ∧ (Instr.rEcho 0xFDFF).fits .mbc2) ∧ ((Instr.nbRead8000 0x8000).WellFormed ∧ (Instr.nbRead8000 0x8000).fits .noBanking) ∧
    ((Instr.lbWrite6000 0x7FFF 0x01).WellFormed ∧ (Instr.lbWrite6000 0x7FFF 0x01).fits .linear) ∧
    ((Instr.m2WriteA8Set 0x2100 0x03).WellFormed ∧ (Instr.m2WriteA8Set 0x2100 0x03).fits .mbc2) ∧
    ((Instr.m3ReadRam 0x1FFF).WellFormed ∧ (Instr.m3ReadRam 0x1FFF).fits .mbc3) ∧ ((Instr.m5Write3000 0x3000 0x01).WellFormed ∧ (Instr.m5Write3000 0x3000 0x01).fits .mbc5) := by
  decide

/-- DecodedRequestsAreRowsOfTheTable. -/
theorem witness_DecodedRequestsAreRowsOfTheTable :
    decode .linear { word := .cart 0x17FFF, data := 0x0001, image := [] } = .ok (.lbWrite6000 0x7FFF 0x01) := rfl

/-- ReservedWordsHaveNoMeaning: a word of each reserved clause, and one of each format that is not reserved. -/
theorem witness_ReservedWordsHaveNoMeaning :
    (ReservedWord (.cart 0x22000) ∧ ReservedWord (.cart 0x3FFFF) ∧ ReservedWord (.reg 0x30) ∧ ReservedWord (.reg 0x07) ∧ ReservedWord (.reg 0x16) ∧
      ReservedWord (.reg 0x24) ∧ ReservedWord (.ctl 0x02)) ∧
    (¬ ReservedWord (.bus 0x3FFFF) ∧ ¬ ReservedWord (.cart 0x31FFF) ∧ ¬ ReservedWord (.reg 0x23) ∧ ¬ ReservedWord (.ctl 0x01)) := by
  simp only [ReservedWord]; decide

/-- A request with no image. -/
def req (word : ReqWord) (data : Word) : Request := { word := word, data := data, image := [] }
/-- The state with one request waiting. -/
def waiting (s : State) (r : Request) : State := s.withPending [r]

/-- StepRunsTheDecodedRequest: a word with a meaning and a reserved one. -/
theorem witness_StepRunsTheDecodedRequest :
    ((waiting .reset (req (rd 0xFF40) 0)).pending = req (rd 0xFF40) 0 :: [] ∧
      decode (waiting .reset (req (rd 0xFF40) 0)).variant (req (rd 0xFF40) 0) = .ok (.rIo 0xFF40)) ∧
    ((waiting .reset (req (.reg 0x07) 0)).pending = req (.reg 0x07) 0 :: [] ∧ ReservedWord (req (.reg 0x07) 0).word) :=
  ⟨⟨rfl, rfl⟩, rfl, .inr (.inl (by decide))⟩

theorem witness_StepWithNothingWaitingChangesNothing : State.reset.pending = [] := rfl

/-- `lo ≤ a ≤ hi` for an address written as a number. -/
def within (lo a hi : Nat) : Prop := lo ≤ (BitVec.ofNat 16 a : Addr).toNat ∧ (BitVec.ofNat 16 a : Addr).toNat ≤ hi

/-- FixedRegionReads: both ends of each range. -/
theorem witness_FixedRegionReads :
    within 0x8000 0x8000 0x9FFF ∧ within 0x8000 0x9FFF 0x9FFF ∧ within 0xC000 0xC000 0xDFFF ∧ within 0xC000 0xDFFF 0xDFFF ∧ within 0xE000 0xE000 0xFDFF ∧
    within 0xE000 0xFDFF 0xFDFF ∧ within 0xFE00 0xFE00 0xFE9F ∧ within 0xFE00 0xFE9F 0xFE9F ∧ within 0xFF00 0xFF00 0xFF7F ∧ within 0xFF00 0xFF7F 0xFF7F ∧
    within 0xFF80 0xFF80 0xFFFE ∧ within 0xFF80 0xFFFE 0xFFFE ∧ (0xFFFF#16 : Addr).toNat = 0xFFFF := by
  simp only [within]; decide

theorem witness_UnmappedReadsAllOnesAndIgnoresWrites : within 0xFEA0 0xFEA0 0xFEFF ∧ within 0xFEA0 0xFEFF 0xFEFF := by
  simp only [within]; decide

theorem witness_EveryByteReadCompletesInTheProductionBuild : short.params.indexViolation = .degrade := rfl

/-- CartridgeWindowsComplete: its range clauses, a write that reaches no cell, and a byte no write of the address reaches. -/
theorem witness_CartridgeWindowsComplete :
    (within 0 0x7FFF 0x7FFF ∧ short.params.indexViolation = .degrade) ∧ (within 0xA000 0xA000 0xBFFF ∧ within 0xA000 0xBFFF 0xBFFF) ∧
    cramTarget (withCart (.mbc3 { m3 with select := 0x08 })) 0xA000 = none ∧ cramTarget (withCart (.linear lb)) 0xBFFF ≠ some (.cartRam 0x7FFE) := by
  simp only [within]; decide

/-- CartridgeWindowsAskTheActiveController: one request for each clause. -/
theorem witness_CartridgeWindowsAskTheActiveController :
    (within 0 0x7FFF 0x7FFF ∧ CartMeans (withCart (.linear lb)).variant 0 (0x7FFF#16 : Addr).toNat 0 (.lbRead4000 0x7FFF)) ∧
    CartMeans (withCart (.linear lb)).variant 1 (0x7FFF#16 : Addr).toNat ((0x01#8 : Byte).setWidth 16) (.lbWrite6000 0x7FFF 0x01) ∧
    (within 0xA000 0xBFFF 0xBFFF ∧ CartMeans (withCart (.linear lb)).variant 2 ((0xBFFF#16 : Addr).toNat - 0xA000) 0 (.lbReadRam 0x1FFF)) ∧
    CartMeans (withCart (.linear lb)).variant 3 ((0xBFFF#16 : Addr).toNat - 0xA000) ((0x01#8 : Byte).setWidth 16) (.lbWriteRam 0x1FFF 0x01) :=
  ⟨⟨by simp only [within]; decide, rfl⟩, rfl, ⟨by simp only [within]; decide, rfl⟩, rfl⟩

/-- FixedRegionWrites: both ends of each range. -/
theorem witness_FixedRegionWrites :
    within 0x8000 0x8000 0x9FFF ∧ within 0x8000 0x9FFF 0x9FFF ∧ within 0xC000 0xC000 0xDFFF ∧ within 0xC000 0xDFFF 0xDFFF ∧ within 0xFE00 0xFE00 0xFE9F ∧
    within 0xFE00 0xFE9F 0xFE9F ∧ within 0xFF00 0xFF00 0xFF7F ∧ within 0xFF00 0xFF7F 0xFF7F ∧ within 0xFF80 0xFF80 0xFFFE ∧ within 0xFF80 0xFFFE 0xFFFE ∧
    (0xFFFF#16 : Addr).toNat = 0xFFFF := by
  simp only [within]; decide

theorem witness_EchoIsWramInBothDirections : within 0xE000 0xE000 0xFDFF ∧ within 0xE000 0xFDFF 0xFDFF := by
  simp only [within]; decide

/-- WordAccessesAreLittleEndian: the production build; a raise of the first byte; a raise of the second. -/
theorem witness_WordAccessesAreLittleEndian :
    ((0xFFFE#16 : Addr).toNat < 0xFFFF ∧ short.params.indexViolation = .degrade) ∧ exec (decodeRead 0x0002) debugged = .fault (.internalIndexViolation 0x0002) ∧
    (exec (decodeRead 0x0001) debugged = .next { debugged with resp := .byte 0x22 } ∧
      exec (decodeRead (0x0001 + 1)) { debugged with resp := .byte 0x22 } = .fault (.internalIndexViolation 0x0002)) :=
  ⟨⟨by decide, rfl⟩, rfl, rfl, rfl⟩

theorem witness_WordAtTheTopWrapsToAddressZero : (withCart (.noBanking nb)).params.indexViolation = .degrade := rfl

/-- WordReadsReturnTheWordWritten: the last two addresses, the step from WRAM to its echo, and the start of VRAM. -/
theorem witness_WordReadsReturnTheWordWritten :
    (PlainStorage 0xFFFE ∧ PlainStorage (0xFFFE + 1)) ∧ (PlainStorage 0xDFFF ∧ PlainStorage (0xDFFF + 1)) ∧ (PlainStorage 0x8000 ∧ PlainStorage (0x8000 + 1)) := by
  simp only [PlainStorage]; decide

theorem witness_WordWriteAcrossTheModeRegister : (withCart (.linear lb)).mm.cart = some (.linear lb) := rfl

theorem witness_BeforeTheFirstLoadStagingAndXramServeTheCartridge :
    State.reset.mm.cart = none ∧ within 0 0x7FFF 0x7FFF ∧ within 0xA000 0xA000 0xBFFF ∧ within 0xA000 0xBFFF 0xBFFF := by
  simp only [within]; decide

theorem witness_NoBankingReadsItsRom :
    (withCart (.noBanking nb)).mm.cart = some (.noBanking nb) ∧ (0x7FFF#16 : Addr).toNat < 0x8000 ∧ 0x8000 ≤ (0x8000#16 : Addr).toNat := by decide

theorem witness_NoBankingRamIsAlwaysEnabled : (withCart (.noBanking nb)).mm.cart = some (.noBanking nb) := rfl

/-- LinearBankZeroReads: inside the image, beyond it in the production build, beyond it in the debug build. -/
theorem witness_LinearBankZeroReads :
    (debugged.mm.cart = some (.linear { lb with rom := { len := 2, cells := [(0x0001, 0x22)] } }) ∧ (0x3FFF#16 : Addr).toNat ≤ 0x3FFF ∧ (0x0001#16 : Addr).toNat < 2) ∧
    (2 ≤ (0x0002#16 : Addr).toNat ∧ short.params.indexViolation = .degrade) ∧ (2 ≤ (0x3FFF#16 : Addr).toNat ∧ debugged.params.indexViolation = .fault) := by
  decide

/-- LinearSwitchableWindow: a bank field that is substituted, at the last address of the window, and the first above it. -/
theorem witness_LinearSwitchableWindow :
    (withCart (.linear { lb with romBankSelect := 0x40 })).mm.cart = some (.linear { lb with romBankSelect := 0x40 }) ∧
    0x41 = (0x40#7).toNat / 32 * 32 + (if (0x40#7).toNat % 32 = 0 then 1 else (0x40#7).toNat % 32) ∧
    0x107FFF = 0x41 * 0x4000 + ((0x7FFF#16 : Addr).toNat - 0x4000) ∧ within 0x4000 0x7FFF 0x7FFF ∧ 0x8000 ≤ (0x8000#16 : Addr).toNat := by
  simp only [within]; decide

/-- LinearRegisterWrites: the ends of each range, and both modes. -/
theorem witness_LinearRegisterWrites :
    (withCart (.linear lb)).mm.cart = some (.linear lb) ∧ lb.bankingMode = 1 ∧
    (withCart (.linear { lb with bankingMode := 0 })).mm.cart = some (.linear { lb with bankingMode := 0 }) ∧ within 0 0x1FFF 0x1FFF ∧ within 0x2000 0x2000 0x3FFF ∧
    within 0x2000 0x3FFF 0x3FFF ∧ within 0x4000 0x4000 0x5FFF ∧ within 0x4000 0x5FFF 0x5FFF ∧ within 0x6000 0x6000 0x7FFF ∧ within 0x6000 0x7FFF 0x7FFF := by
  simp only [within]; decide

/-- LinearRamWindow: enabled in mode 1, enabled in mode 0, and disabled. -/
theorem witness_LinearRamWindow :
    (withCart (.linear lb)).mm.cart = some (.linear lb) ∧ 3 = (if lb.bankingMode = 1 then lb.ramBankSelect.toNat else 0) ∧ lb.ramEnabled = true ∧
    0 = (if ({ lb with bankingMode := 0 } : LinearBanking).bankingMode = 1 then lb.ramBankSelect.toNat else 0) ∧
    ({ lb with ramEnabled := false } : LinearBanking).ramEnabled = false := by decide

/-- A state of each extended variant over a two-byte image, in either build. -/
def shortOf (p : IndexPolicy) (c : Controller) : State := { withCart c with params := { Params.default with indexViolation := p } }
/-- A two-byte image. -/
def img2 : Image := { len := 2, cells := [(0x0001, 0x22)] }

/-- ExtendedBankZeroReads: each variant, inside the image and beyond it in both builds. -/
theorem witness_ExtendedBankZeroReads :
    ((shortOf .fault (.mbc2 { m2 with rom := img2 })).mm.cart = some (.mbc2 { m2 with rom := img2 }) ∧
      (shortOf .fault (.mbc3 { m3 with rom := img2 })).mm.cart = some (.mbc3 { m3 with rom := img2 }) ∧
      (shortOf .fault (.mbc5 { m5 with rom := img2 })).mm.cart = some (.mbc5 { m5 with rom := img2 })) ∧
    (0x3FFF#16 : Addr).toNat ≤ 0x3FFF ∧ (0x0001#16 : Addr).toNat < img2.len ∧ img2.len ≤ (0x0002#16 : Addr).toNat ∧
    (shortOf .fault (.mbc2 { m2 with rom := img2 })).params.indexViolation = .fault ∧ (shortOf .degrade (.mbc2 { m2 with rom := img2 })).params.indexViolation = .degrade := by
  decide

/-- ExtendedSwitchableWindows: each variant's bank at the last address of the window, and the first address above it. -/
theorem witness_ExtendedSwitchableWindows :
    ((withCart (.mbc2 m2)).mm.cart = some (.mbc2 m2) ∧ 0xFFFF = m2.romBank.toNat * 0x4000 + ((0x7FFF#16 : Addr).toNat - 0x4000)) ∧
    ((withCart (.mbc3 m3)).mm.cart = some (.mbc3 m3) ∧ 0x107FFF = m3.romBank.toNat * 0x4000 + ((0x7FFF#16 : Addr).toNat - 0x4000)) ∧
    ((withCart (.mbc5 m5)).mm.cart = some (.mbc5 m5) ∧
      0x107FFF = (m5.romBankHi.toNat * 256 + m5.romBankLo.toNat) * 0x4000 + ((0x7FFF#16 : Addr).toNat - 0x4000)) ∧
    within 0x4000 0x7FFF 0x7FFF ∧ 0x8000 ≤ (0x8000#16 : Addr).toNat := by
  simp only [within]; decide

/-- Mbc2RegisterWrites: an address with bit 8 clear and one with it set. -/
theorem witness_Mbc2RegisterWrites :
    (withCart (.mbc2 m2)).mm.cart = some (.mbc2 m2) ∧ ((0x3EFF#16 : Addr).toNat ≤ 0x3FFF ∧ (0x3EFF#16 : Addr).toNat / 256 % 2 = 0) ∧
    ((0x3FFF#16 : Addr).toNat ≤ 0x3FFF ∧ (0x3FFF#16 : Addr).toNat / 256 % 2 = 1) := by decide

theorem witness_Mbc2NibbleRam :
    (withCart (.mbc2 m2)).mm.cart = some (.mbc2 m2) ∧ m2.ramEnabled = true ∧ ({ m2 with ramEnabled := false } : Mbc2).ramEnabled = false := by decide

theorem witness_Mbc3RegisterWrites :
    (withCart (.mbc3 m3)).mm.cart = some (.mbc3 m3) ∧ within 0 0x1FFF 0x1FFF ∧ within 0x2000 0x2000 0x3FFF ∧ within 0x2000 0x3FFF 0x3FFF ∧ within 0x4000 0x4000 0x5FFF ∧
    within 0x4000 0x5FFF 0x5FFF := by
  simp only [within]; decide

/-- Mbc3RamWindow: the ends of each group of selects, and the latch clear. -/
theorem witness_Mbc3RamWindow :
    (withCart (.mbc3 m3)).mm.cart = some (.mbc3 m3) ∧ m3.ramEnabled = true ∧ ({ m3 with ramEnabled := false } : Mbc3).ramEnabled = false ∧
    ([0x00, 0x03].all fun x => decide (({ m3 with select := BitVec.ofNat 8 x } : Mbc3).select.toNat ≤ 3)) = true ∧
    ([0x08, 0x0C].all fun x => decide (0x08 ≤ ({ m3 with select := BitVec.ofNat 8 x } : Mbc3).select.toNat ∧ ({ m3 with select := BitVec.ofNat 8 x } : Mbc3).select.toNat ≤ 0x0C)) = true ∧
    ([0x04, 0x07].all fun x => decide (0x04 ≤ ({ m3 with select := BitVec.ofNat 8 x } : Mbc3).select.toNat ∧ ({ m3 with select := BitVec.ofNat 8 x } : Mbc3).select.toNat ≤ 0x07)) = true ∧
    ([0x0D, 0xFF].all fun x => decide (0x0D ≤ ({ m3 with select := BitVec.ofNat 8 x } : Mbc3).select.toNat)) = true := by decide

theorem witness_Mbc5RegisterWrites :
    (withCart (.mbc5 m5)).mm.cart = some (.mbc5 m5) ∧ within 0 0x1FFF 0x1FFF ∧ within 0x2000 0x2000 0x2FFF ∧ within 0x2000 0x2FFF 0x2FFF ∧ within 0x3000 0x3000 0x3FFF ∧
    within 0x3000 0x3FFF 0x3FFF ∧ within 0x4000 0x4000 0x5FFF ∧ within 0x4000 0x5FFF 0x5FFF := by
  simp only [within]; decide

theorem witness_Mbc5RamWindow :
    (withCart (.mbc5 m5)).mm.cart = some (.mbc5 m5) ∧ m5.ramEnabled = true ∧ ({ m5 with ramEnabled := false } : Mbc5).ramEnabled = false := by decide

/-- ControllerWritesThatSetNoRegister: each variant at the ends of its range. -/
theorem witness_ControllerWritesThatSetNoRegister :
    ((withCart (.linear lb)).mm.cart = some (.linear lb) ∧ 0x8000 ≤ (0x8000#16 : Addr).toNat) ∧ ((withCart (.mbc2 m2)).mm.cart = some (.mbc2 m2) ∧ 0x4000 ≤ (0x4000#16 : Addr).toNat) ∧
    ((withCart (.mbc3 m3)).mm.cart = some (.mbc3 m3) ∧ within 0x6000 0x6000 0x7FFF ∧ within 0x6000 0x7FFF 0x7FFF ∧ 0x8000 ≤ (0xFFFF#16 : Addr).toNat) ∧
    ((withCart (.mbc5 m5)).mm.cart = some (.mbc5 m5) ∧ 0x6000 ≤ (0x6000#16 : Addr).toNat) := by
  simp only [within]; decide

theorem witness_RegisterFileAndMemoryMapAreSeparate : (Instr.set16Af 0x12FF).isReg = true ∧ (Instr.wWram 0xC000 0x33).isReg = false := by decide

/-- ReadsHaveNoSideEffects: a byte read, a word read, a controller read and a GET that complete. -/
theorem witness_ReadsHaveNoSideEffects :
    ((Instr.rIo 0xFF40).isRead = true ∧ ∃ t, exec (.rIo 0xFF40) .reset = .next t) ∧ ((Instr.rdw 0xFFFF).isRead = true ∧ ∃ t, exec (.rdw 0xFFFF) (withCart (.noBanking nb)) = .next t) ∧
    ((Instr.m2ReadRam 0x0005).isRead = true ∧ ∃ t, exec (.m2ReadRam 0x0005) (withCart (.mbc2 m2)) = .next t) ∧
    (Instr.get16Af.isRead = true ∧ ∃ t, exec .get16Af regs = .next t) :=
  ⟨⟨by decide, _, rfl⟩, ⟨by decide, _, rfl⟩, ⟨by decide, _, rfl⟩, by decide, _, rfl⟩

/-- ByteWritesAreIdempotent: a memory write and a controller write that complete. -/
theorem witness_ByteWritesAreIdempotent :
    ((Instr.wEcho 0xFDFF 0x44).isByteWrite = true ∧ ∃ t, exec (.wEcho 0xFDFF 0x44) .reset = .next t) ∧
    ((Instr.lbWrite6000 0x6000 0x01).isByteWrite = true ∧ ∃ t, exec (.lbWrite6000 0x6000 0x01) (withCart (.linear lb)) = .next t) :=
  ⟨⟨by decide, _, rfl⟩, by decide, _, rfl⟩

/-- RomAndVariantChangeOnlyAtALoad: a control write and RESET with a controller active. -/
theorem witness_RomAndVariantChangeOnlyAtALoad :
    ((Instr.wRom 0x2000 0x05).isLoadrom = false ∧ ∃ t, exec (.wRom 0x2000 0x05) (withCart (.linear lb)) = .next t) ∧
    (Instr.reset.isLoadrom = false ∧ ∃ t, exec .reset (withCart (.linear lb)) = .next t) :=
  ⟨⟨by decide, _, rfl⟩, by decide, _, rfl⟩

theorem witness_StagingAndXramAreOutOfReachOnceLoaded :
    (withCart (.noBanking nb)).mm.cart = some (.noBanking nb) ∧ (Instr.rCram 0xA000).isLoadrom = false ∧ Instr.rCram 0xA000 ≠ .reset := by decide

/-- LoadRomSelectsTheVariantByCode: the hypotheses on codes 0x13, 0x03 and 0x04, with EXTENDED_MBC each way. -/
theorem witness_LoadRomSelectsTheVariantByCode :
    ((True ↔ (0x05 ≤ (0x13#8 : Byte).toNat ∧ (0x13#8 : Byte).toNat ≤ 0x06) ∨ (0x0F ≤ (0x13#8 : Byte).toNat ∧ (0x13#8 : Byte).toNat ≤ 0x13) ∨
        (0x19 ≤ (0x13#8 : Byte).toNat ∧ (0x13#8 : Byte).toNat ≤ 0x1E)) ∧
      (True ↔ (0x13#8 : Byte).toNat ≤ 0x03 ∨ True) ∧ refusing.params.extendedMbc = .refuse ∧ State.reset.params.extendedMbc = .gk) ∧
    ((False ↔ (0x05 ≤ (0x03#8 : Byte).toNat ∧ (0x03#8 : Byte).toNat ≤ 0x06) ∨ (0x0F ≤ (0x03#8 : Byte).toNat ∧ (0x03#8 : Byte).toNat ≤ 0x13) ∨
        (0x19 ≤ (0x03#8 : Byte).toNat ∧ (0x03#8 : Byte).toNat ≤ 0x1E)) ∧ (True ↔ (0x03#8 : Byte).toNat ≤ 0x03 ∨ False)) ∧
    ((False ↔ (0x05 ≤ (0x04#8 : Byte).toNat ∧ (0x04#8 : Byte).toNat ≤ 0x06) ∨ (0x0F ≤ (0x04#8 : Byte).toNat ∧ (0x04#8 : Byte).toNat ≤ 0x13) ∨
        (0x19 ≤ (0x04#8 : Byte).toNat ∧ (0x04#8 : Byte).toNat ≤ 0x1E)) ∧ (False ↔ (0x04#8 : Byte).toNat ≤ 0x03 ∨ False)) := by decide

theorem witness_LoadRomStagesTheImageAndTouchesNothingElse : ∃ t, exec (.loadrom [0x11, 0x22] 0x00) .reset = .next t := ⟨_, rfl⟩

/-- LoadRomBuildsAFreshController: a code of each variant. -/
theorem witness_LoadRomBuildsAFreshController :
    (∃ t, exec (.loadrom [0x11, 0x22] 0x00) .reset = .next t) ∧ (∃ t, exec (.loadrom [0x11, 0x22] 0x01) .reset = .next t) ∧
    (∃ t, exec (.loadrom [0x11, 0x22] 0x05) .reset = .next t) ∧ (∃ t, exec (.loadrom [0x11, 0x22] 0x0F) .reset = .next t) ∧
    ∃ t, exec (.loadrom [0x11, 0x22] 0x1E) .reset = .next t := ⟨⟨_, rfl⟩, ⟨_, rfl⟩, ⟨_, rfl⟩, ⟨_, rfl⟩, _, rfl⟩

theorem witness_ConstructionState : State.reset = State.construct .default .zero := rfl

theorem witness_NoFaultInTheProductionBuild : short.params.indexViolation = .degrade := rfl

/-- TheOnlyFaultIsAShortImageInTheDebugBuild. -/
theorem witness_TheOnlyFaultIsAShortImageInTheDebugBuild : step (waiting debugged (req (rdw 0x0001) 0)) = .fault (.internalIndexViolation 0x0002) := rfl

/-- RefusalsAreTheTwoTheSpecNames: both. -/
theorem witness_RefusalsAreTheTwoTheSpecNames :
    step (waiting .reset (req (.reg 0x07) 0)) = .refused (.reservedRequest (.reg 0x07)) ∧
    step (waiting refusing (req (.ctl 0x01) 0x001E)) = .refused (.unmodelledVariant 0x1E) := ⟨rfl, rfl⟩

/-- EveryStepKeepsTheInvariant: a state with a controller and a step from it. -/
theorem witness_EveryStepKeepsTheInvariant :
    (waiting (withCart (.linear lb)) (req (wr 0x6000) 0x0001)).Inv ∧ ∃ t, step (waiting (withCart (.linear lb)) (req (wr 0x6000) 0x0001)) = .next t :=
  ⟨by decide, _, rfl⟩

theorem witness_LinearRegistersStayLegal :
    (waiting (withCart (.linear lb)) (req (wr 0x4000) 0x0003)).LinearLegal ∧ ∃ t, step (waiting (withCart (.linear lb)) (req (wr 0x4000) 0x0003)) = .next t := by
  refine ⟨fun c h => ?_, _, rfl⟩
  cases h
  decide

/-- UnreachableOamBytesStayZero: both ends of the unreachable bytes, and a step that writes OAM. -/
theorem witness_UnreachableOamBytesStayZero :
    (0xA0 ≤ 0xA0 ∧ 0xFF ≤ 0xFF ∧ peek (waiting .reset (req (wr 0xFE9F) 0x0066)) (.buf .oam 0xA0) = 0x00 ∧
      peek (waiting .reset (req (wr 0xFE9F) 0x0066)) (.buf .oam 0xFF) = 0x00) ∧ ∃ t, step (waiting .reset (req (wr 0xFE9F) 0x0066)) = .next t :=
  ⟨by decide, _, rfl⟩

theorem witness_NoRequestChangesTheParameters : ∃ t, step (waiting (withCart (.mbc2 m2)) (req (rd 0xA005) 0)) = .next t := ⟨_, rfl⟩

end Sys2Proof.Tests
end

section
/-! The rules of the register-file ports (40_register_file.md): what their words mean, the 16-bit views and their
halves as numbers, and what a request reads and leaves alone when the other half of the state is replaced. -/

namespace Sys2Proof.Machine

/-! ## The words of the ports (30_encoding.md R104) -/

/-- A register-file port has no address to check and belongs to no variant's rows. -/
theorem isReg_wellFormed_fits {i : Instr} (h : i.isReg = true) : i.WellFormed ∧ ∀ var, i.fits var := by
  cases i with
  | get8A | get8B | get8C | get8D | get8E | get8H | get8L
  | set8A | set8B | set8C | set8D | set8E | set8H | set8L
  | get16Af | get16Bc | get16De | get16Hl | get16Sp | get16Pc
  | set16Af | set16Bc | set16De | set16Hl | set16Sp | set16Pc
  | getfZ | getfN | getfH | getfC | setfZ | setfN | setfH | setfC => exact ⟨rfl, fun _ => .inl rfl⟩
  | _ => cases h

/-- A REG word means the port whose request the encoder builds with it, for the port decodes back. -/
theorem regMeans_of_roundTrip {i : Instr} {w : Nat} {data : Word} (hi : Laws.RoundTrip.Statement i)
    (he : encode i = { word := .reg (BitVec.ofNat 8 w), data := data, image := [] }) : RegMeans w data i := by
  have hreg : i.isReg = true := by rw [Instr.isReg, he]; rfl
  obtain ⟨hwf, hfits⟩ := isReg_wellFormed_fits hreg
  intro var
  rw [← he]
  exact hi hwf var (hfits var)

/-! ## Halves and composites as numbers -/

theorem joinBytes_eq (hi lo : Byte) : joinBytes hi lo = BitVec.ofNat 16 (hi.toNat * 256 + lo.toNat) := by
  apply BitVec.eq_of_toNat_eq
  have hhi := hi.isLt
  have hlo := lo.isLt
  rw [joinBytes, BitVec.toNat_append, ← Nat.shiftLeft_add_eq_or_of_lt hlo, Nat.shiftLeft_eq, BitVec.toNat_ofNat]
  omega

theorem hiByte_eq (v : Word) : hiByte v = BitVec.ofNat 8 (v.toNat / 256) := by
  apply BitVec.eq_of_toNat_eq
  rw [hiByte, BitVec.extractLsb'_toNat, BitVec.toNat_ofNat, Nat.shiftRight_eq_div_pow]

theorem loByte_eq (v : Word) : loByte v = BitVec.ofNat 8 (v.toNat % 256) := by
  apply BitVec.eq_of_toNat_eq
  rw [loByte, BitVec.extractLsb'_toNat, BitVec.toNat_ofNat, Nat.shiftRight_zero, Nat.mod_mod]

theorem getLsbD_loByte (v : Word) {i : Nat} (h : i < 8) : (loByte v).getLsbD i = v.getLsbD i := by
  simp [loByte, h]

/-- The two halves of a 16-bit value, put together, give it back (R137). -/
theorem ofNat_halves (v : Word) :
    BitVec.ofNat 16 ((BitVec.ofNat 8 (v.toNat / 256)).toNat * 256 + (BitVec.ofNat 8 (v.toNat % 256)).toNat) = v := by
  apply BitVec.eq_of_toNat_eq
  have hv := v.isLt
  simp only [BitVec.toNat_ofNat]
  omega

/-- The packed flags as a sum of bit weights (R130). -/
theorem packFlags_toNat (r : RegFile) :
    r.packFlags.toNat = r.zf.toNat * 128 + r.nf.toNat * 64 + r.hf.toNat * 32 + r.cf.toNat * 16 := by
  unfold RegFile.packFlags
  cases r.zf <;> cases r.nf <;> cases r.hf <;> cases r.cf <;> rfl

/-- A high byte above the flags of bits 7 to 4 is the value with bits 3 to 0 cleared (R135). -/
theorem ofNat_hiByte_flags (v : Word) :
    BitVec.ofNat 16 ((BitVec.ofNat 8 (v.toNat / 256)).toNat * 256 + (v.getLsbD 7).toNat * 128 + (v.getLsbD 6).toNat * 64 +
      (v.getLsbD 5).toNat * 32 + (v.getLsbD 4).toNat * 16) = BitVec.ofNat 16 (v.toNat / 16 * 16) := by
  have hv := v.isLt
  have hbit (k : Nat) : (v.getLsbD k).toNat = v.toNat / 2 ^ k % 2 := Nat.toNat_testBit v.toNat k
  congr 1
  simp only [hbit, BitVec.toNat_ofNat]
  omega

/-! ## The composite ports (R134 to R137) -/

theorem exec_get16Af (s : State) :
    exec .get16Af s = .next { s with resp := .word (BitVec.ofNat 16 (s.rf.a.toNat * 256 + s.rf.packFlags.toNat)) } := by
  rw [← joinBytes_eq]
  rfl

/-- GET16 af, with the flags written out bit by bit. -/
theorem exec_get16Af_flags (s : State) :
    exec .get16Af s = .next { s with resp := .word (BitVec.ofNat 16 (s.rf.a.toNat * 256 + s.rf.zf.toNat * 128 +
      s.rf.nf.toNat * 64 + s.rf.hf.toNat * 32 + s.rf.cf.toNat * 16)) } := by
  simp only [exec_get16Af, packFlags_toNat, Nat.add_assoc]

theorem exec_get16Bc (s : State) :
    exec .get16Bc s = .next { s with resp := .word (BitVec.ofNat 16 (s.rf.b.toNat * 256 + s.rf.c.toNat)) } := by
  rw [← joinBytes_eq]
  rfl

theorem exec_get16De (s : State) :
    exec .get16De s = .next { s with resp := .word (BitVec.ofNat 16 (s.rf.d.toNat * 256 + s.rf.e.toNat)) } := by
  rw [← joinBytes_eq]
  rfl

theorem exec_get16Hl (s : State) :
    exec .get16Hl s = .next { s with resp := .word (BitVec.ofNat 16 (s.rf.h.toNat * 256 + s.rf.l.toNat)) } := by
  rw [← joinBytes_eq]
  rfl

theorem exec_set16Af (v : Word) (s : State) :
    exec (.set16Af v) s = .next { s with
      rf := { s.rf with a := BitVec.ofNat 8 (v.toNat / 256), zf := v.getLsbD 7, nf := v.getLsbD 6, hf := v.getLsbD 5, cf := v.getLsbD 4 }
      resp := .done } := by
  rw [← hiByte_eq, ← getLsbD_loByte v (i := 7) (by decide), ← getLsbD_loByte v (i := 6) (by decide),
    ← getLsbD_loByte v (i := 5) (by decide), ← getLsbD_loByte v (i := 4) (by decide)]
  rfl

theorem exec_set16Bc (v : Word) (s : State) :
    exec (.set16Bc v) s = .next { s with
      rf := { s.rf with b := BitVec.ofNat 8 (v.toNat / 256), c := BitVec.ofNat 8 (v.toNat % 256) }, resp := .done } := by
  rw [← hiByte_eq, ← loByte_eq]
  rfl

theorem exec_set16De (v : Word) (s : State) :
    exec (.set16De v) s = .next { s with
      rf := { s.rf with d := BitVec.ofNat 8 (v.toNat / 256), e := BitVec.ofNat 8 (v.toNat % 256) }, resp := .done } := by
  rw [← hiByte_eq, ← loByte_eq]
  rfl

theorem exec_set16Hl (v : Word) (s : State) :
    exec (.set16Hl v) s = .next { s with
      rf := { s.rf with h := BitVec.ofNat 8 (v.toNat / 256), l := BitVec.ofNat 8 (v.toNat % 256) }, resp := .done } := by
  rw [← hiByte_eq, ← loByte_eq]
  rfl

/-- Where `a` and the flags hold the bits 15 to 4 of a value, as SET16 af leaves them, GET16 af hands it back with
bits 3 to 0 cleared (R135). -/
theorem exec_get16Af_of_flags {t : State} {v : Word} (ha : t.rf.a = BitVec.ofNat 8 (v.toNat / 256))
    (hz : t.rf.zf = v.getLsbD 7) (hn : t.rf.nf = v.getLsbD 6) (hh : t.rf.hf = v.getLsbD 5) (hc : t.rf.cf = v.getLsbD 4) :
    exec .get16Af t = .next { t with resp := .word (BitVec.ofNat 16 (v.toNat / 16 * 16)) } := by
  rw [exec_get16Af_flags, ha, hz, hn, hh, hc, ofNat_hiByte_flags]

/-! ## Another register file in place (R144) -/

theorem State.answerByte_withRf (s : State) (rf : RegFile) (x : Except Fault (Byte × Nat)) :
    (s.withRf rf).answerByte x = mapNext (fun t => { t with rf := rf }) (s.answerByte x) := by
  cases x <;> rfl

theorem State.answerWord_withRf (s : State) (rf : RegFile) (x : Except Fault (Word × Nat)) :
    (s.withRf rf).answerWord x = mapNext (fun t => { t with rf := rf }) (s.answerWord x) := by
  cases x <;> rfl

theorem State.onNoBanking_withRf (s : State) (rf : RegFile) {k k' : NoBanking → Out}
    (h : ∀ c, k' c = mapNext (fun t => { t with rf := rf }) (k c)) :
    (s.withRf rf).onNoBanking k' = mapNext (fun t => { t with rf := rf }) (s.onNoBanking k) := by
  unfold State.onNoBanking
  rw [State.withRf_mm]
  cases s.mm.ctl with
  | noBanking c => exact h c
  | _ => rfl

theorem State.onLinear_withRf (s : State) (rf : RegFile) {k k' : LinearBanking → Out}
    (h : ∀ c, k' c = mapNext (fun t => { t with rf := rf }) (k c)) :
    (s.withRf rf).onLinear k' = mapNext (fun t => { t with rf := rf }) (s.onLinear k) := by
  unfold State.onLinear
  rw [State.withRf_mm]
  cases s.mm.ctl with
  | linear c => exact h c
  | _ => rfl

theorem State.onMbc2_withRf (s : State) (rf : RegFile) {k k' : Mbc2 → Out}
    (h : ∀ c, k' c = mapNext (fun t => { t with rf := rf }) (k c)) :
    (s.withRf rf).onMbc2 k' = mapNext (fun t => { t with rf := rf }) (s.onMbc2 k) := by
  unfold State.onMbc2
  rw [State.withRf_mm]
  cases s.mm.ctl with
  | mbc2 c => exact h c
  | _ => rfl

theorem State.onMbc3_withRf (s : State) (rf : RegFile) {k k' : Mbc3 → Out}
    (h : ∀ c, k' c = mapNext (fun t => { t with rf := rf }) (k c)) :
    (s.withRf rf).onMbc3 k' = mapNext (fun t => { t with rf := rf }) (s.onMbc3 k) := by
  unfold State.onMbc3
  rw [State.withRf_mm]
  cases s.mm.ctl with
  | mbc3 c => exact h c
  | _ => rfl

theorem State.onMbc5_withRf (s : State) (rf : RegFile) {k k' : Mbc5 → Out}
    (h : ∀ c, k' c = mapNext (fun t => { t with rf := rf }) (k c)) :
    (s.withRf rf).onMbc5 k' = mapNext (fun t => { t with rf := rf }) (s.onMbc5 k) := by
  unfold State.onMbc5
  rw [State.withRf_mm]
  cases s.mm.ctl with
  | mbc5 c => exact h c
  | _ => rfl

theorem execLoadrom_withRf (image : List Byte) (code : Byte) (s : State) (rf : RegFile) :
    execLoadrom image code (s.withRf rf) = mapNext (fun t => { t with rf := rf }) (execLoadrom image code s) := by
  unfold execLoadrom
  rw [apply_ite (mapNext _)]
  rfl

/-- Every request but a register-file port runs the same with any register file, and leaves it. -/
theorem exec_withRf_of_not_isReg {i : Instr} (h : i.isReg = false) (s : State) (rf : RegFile) :
    exec i (s.withRf rf) = mapNext (fun t => { t with rf := rf }) (exec i s) := by
  cases i with
  | rVram | rWram | rEcho | rOam | rUnmapped | rIo | rHram | rIe
  | wRom | wVram | wCram | wWram | wEcho | wOam | wUnmapped | wIo | wHram | wIe | wrw | reset => rfl
  | rRom => exact s.answerByte_withRf rf _
  | rCram a => exact s.answerByte_withRf rf (.ok (s.readCram a))
  | rdw => exact s.answerWord_withRf rf _
  | nbRead0000 | nbRead8000 | nbWrite0000 | nbReadRam | nbWriteRam => exact s.onNoBanking_withRf rf fun _ => rfl
  | lbRead0000 => exact s.onLinear_withRf rf fun _ => s.answerByte_withRf rf _
  | lbRead4000 | lbRead8000 | lbWrite0000 | lbWrite2000 | lbWrite4000 | lbWrite6000 | lbWrite8000 | lbReadRam | lbWriteRam =>
    exact s.onLinear_withRf rf fun _ => rfl
  | m2Read0000 | m2ReadRam => exact s.onMbc2_withRf rf fun _ => s.answerByte_withRf rf _
  | m2Read4000 | m2Read8000 | m2WriteA8Clear | m2WriteA8Set | m2Write4000 | m2WriteRam =>
    exact s.onMbc2_withRf rf fun _ => rfl
  | m3Read0000 | m3ReadRam => exact s.onMbc3_withRf rf fun _ => s.answerByte_withRf rf _
  | m3Read4000 | m3Read8000 | m3Write0000 | m3Write2000 | m3Write4000 | m3Write6000 | m3Write8000 | m3WriteRam =>
    exact s.onMbc3_withRf rf fun _ => rfl
  | m5Read0000 => exact s.onMbc5_withRf rf fun _ => s.answerByte_withRf rf _
  | m5Read4000 | m5Read8000 | m5Write0000 | m5Write2000 | m5Write3000 | m5Write4000 | m5Write6000 | m5ReadRam | m5WriteRam =>
    exact s.onMbc5_withRf rf fun _ => rfl
  | loadrom image code => exact execLoadrom_withRf image code s rf
  | _ => cases h

/-- A register-file port runs the same with any memory map, and leaves it. -/
theorem exec_withMm_of_isReg {i : Instr} (h : i.isReg = true) (s : State) (mm : MemoryMap) :
    exec i (s.withMm mm) = mapNext (fun t => { t with mm := mm }) (exec i s) := by
  cases i with
  | get8A | get8B | get8C | get8D | get8E | get8H | get8L
  | set8A | set8B | set8C | set8D | set8E | set8H | set8L
  | get16Af | get16Bc | get16De | get16Hl | get16Sp | get16Pc
  | set16Af | set16Bc | set16De | set16Hl | set16Sp | set16Pc
  | getfZ | getfN | getfH | getfC | setfZ | setfN | setfH | setfC => rfl
  | _ => cases h

end Sys2Proof.Machine
end

section
/-! The statements about the register file (40_register_file.md R130 to R145). -/

namespace Sys2Proof.Proofs

open Sys2Proof.Machine Sys2Proof.Laws

/-- Settles O40: each SET's next state is known exactly, and the GET that follows reads its new fields. -/
theorem compositesAreViewsOfTheirHalves : Obligations.CompositesAreViewsOfTheirHalves := by
  intro s v w
  refine ⟨⟨_, rfl, exec_get16Af _⟩, ⟨_, rfl, exec_get16Bc _⟩, ⟨_, rfl, exec_get16Bc _⟩, ⟨_, rfl, exec_get16De _⟩,
    ⟨_, rfl, exec_get16De _⟩, ⟨_, rfl, exec_get16Hl _⟩, ⟨_, rfl, exec_get16Hl _⟩, ?bc, ?de, ?hl, ?af⟩
  case bc => exact ⟨_, exec_set16Bc w s, rfl, rfl⟩
  case de => exact ⟨_, exec_set16De w s, rfl, rfl⟩
  case hl => exact ⟨_, exec_set16Hl w s, rfl, rfl⟩
  case af => exact ⟨_, exec_set16Af w s, rfl, rfl, rfl, rfl, rfl, exec_get16Af_of_flags rfl rfl rfl rfl rfl⟩

/-- Settles O41, by the kind of request: the register ports over the memory map, all others over the register file. -/
theorem registerFileAndMemoryMapAreSeparate : Obligations.RegisterFileAndMemoryMapAreSeparate :=
  fun _ s => ⟨fun h mm => exec_withMm_of_isReg h s mm, fun h rf => exec_withRf_of_not_isReg h s rf⟩

/-- Settles O35: each word is the one its port encodes to, and each port answers its own field. -/
theorem get8ReturnsTheRegister : Obligations.Get8ReturnsTheRegister := fun _ =>
  ⟨regMeans_of_roundTrip RoundTrip.get8A rfl, rfl, regMeans_of_roundTrip RoundTrip.get8B rfl, rfl,
    regMeans_of_roundTrip RoundTrip.get8C rfl, rfl, regMeans_of_roundTrip RoundTrip.get8D rfl, rfl,
    regMeans_of_roundTrip RoundTrip.get8E rfl, rfl, regMeans_of_roundTrip RoundTrip.get8H rfl, rfl,
    regMeans_of_roundTrip RoundTrip.get8L rfl, rfl⟩

/-- Settles O36: each word is the one its port encodes to, and each port updates its own field. -/
theorem set8WritesOnlyTheRegister : Obligations.Set8WritesOnlyTheRegister := fun _ v =>
  ⟨regMeans_of_roundTrip (RoundTrip.set8A v) rfl, rfl, regMeans_of_roundTrip (RoundTrip.set8B v) rfl, rfl,
    regMeans_of_roundTrip (RoundTrip.set8C v) rfl, rfl, regMeans_of_roundTrip (RoundTrip.set8D v) rfl, rfl,
    regMeans_of_roundTrip (RoundTrip.set8E v) rfl, rfl, regMeans_of_roundTrip (RoundTrip.set8H v) rfl, rfl,
    regMeans_of_roundTrip (RoundTrip.set8L v) rfl, rfl⟩

/-- Settles O37: the views as numbers, the packed flags as a sum of bit weights. -/
theorem get16ReturnsTheView : Obligations.Get16ReturnsTheView := fun s =>
  ⟨BitVec.eq_of_toNat_eq (by rw [← packFlags_toNat, BitVec.ofNat_toNat, BitVec.setWidth_eq]),
    regMeans_of_roundTrip RoundTrip.get16Af rfl, exec_get16Af_flags s,
    regMeans_of_roundTrip RoundTrip.get16Bc rfl, exec_get16Bc s,
    regMeans_of_roundTrip RoundTrip.get16De rfl, exec_get16De s,
    regMeans_of_roundTrip RoundTrip.get16Hl rfl, exec_get16Hl s,
    regMeans_of_roundTrip RoundTrip.get16Sp rfl, rfl, regMeans_of_roundTrip RoundTrip.get16Pc rfl, rfl⟩

/-- Settles O38: a pair's two halves give the value back, and `af` gives it back without bits 3 to 0. -/
theorem set16SplitsTheValue : Obligations.Set16SplitsTheValue := by
  intro s v
  refine ⟨regMeans_of_roundTrip (RoundTrip.set16Af v) rfl, regMeans_of_roundTrip (RoundTrip.set16Bc v) rfl,
    regMeans_of_roundTrip (RoundTrip.set16De v) rfl, regMeans_of_roundTrip (RoundTrip.set16Hl v) rfl,
    ⟨_, exec_set16Af v s, rfl, exec_get16Af_of_flags rfl rfl rfl rfl rfl⟩, ⟨_, exec_set16Bc v s, rfl, ?bc⟩,
    ⟨_, exec_set16De v s, rfl, ?de⟩, ⟨_, exec_set16Hl v s, rfl, ?hl⟩⟩
  case bc => rw [exec_get16Bc, ofNat_halves]
  case de => rw [exec_get16De, ofNat_halves]
  case hl => rw [exec_get16Hl, ofNat_halves]

end Sys2Proof.Proofs
end

section
/-! The rules of the fixed regions (41_memory_map.md R173 to R192): a read answers the byte of the owning buffer, and
a write stores that byte and nothing else. -/

namespace Sys2Proof.Machine

/-- A read of a buffer completes with the byte the buffer holds and writes no state. -/
theorem State.giveByte_load (s : State) (b : Buffer) (i : Nat) :
    s.giveByte (s.mm.load b i) = .next { s with resp := .byte (peek s (.buf b i)) } := rfl

/-- A buffer write changes the one byte it stores: no other buffer byte, not `ie`, not the controller. -/
theorem State.storesOnly_store (s : State) (b : Buffer) (i : Nat) (v : Byte) :
    StoresOnly s ((s.withMm (s.mm.store b i v)).respond .done) (.buf b i) v where
  value := by simp [peek]
  others := by
    intro k hk
    cases k with
    | buf b' j =>
      have hne : ¬ (b' = b ∧ j = i) := fun ⟨hb, hj⟩ => hk (by rw [hb, hj])
      exact (MemoryMap.load_store ..).trans (if_neg hne)
    | ie => exact MemoryMap.store_ie ..
    | cartRom j | cartRam j => simp only [peek, State.respond_mm, State.withMm_mm, MemoryMap.store_cart]
  banking := congrArg (Option.map Controller.sansRam) (MemoryMap.store_cart ..)
  rf := rfl
  params := rfl
  draws := rfl
  pending := rfl
  resp := rfl

/-- A write of `ie` changes no other byte. -/
theorem State.storesOnly_writeIe (s : State) (v : Byte) :
    StoresOnly s ((s.withMm (s.mm.writeIe v)).respond .done) .ie v where
  value := rfl
  others := by
    intro k hk
    cases k with
    | ie => exact absurd rfl hk
    | buf b j => cases b <;> rfl
    | cartRom j | cartRam j => rfl
  banking := rfl
  rf := rfl
  params := rfl
  draws := rfl
  pending := rfl
  resp := rfl

/-- A request that stores a buffer byte completes, and that byte is all it changes. -/
theorem State.finishMm_store (s : State) (b : Buffer) (i : Nat) (v : Byte) :
    ∃ t, s.finishMm (s.mm.store b i v) = .next t ∧ StoresOnly s t (.buf b i) v :=
  ⟨_, rfl, s.storesOnly_store b i v⟩

end Sys2Proof.Machine
end

section
/-! The statements about the fixed regions of the memory map (41_memory_map.md R173 to R192). In each, the request's
meaning is a buffer access at the index of Machine/Operands.lean for its region. -/

namespace Sys2Proof.Proofs

open Sys2Proof.Machine

/-- Settles O13: every region's write is a store in its buffer, and W.IE the write of `ie`. -/
theorem fixedRegionWrites : Obligations.FixedRegionWrites := fun s a v =>
  ⟨fun _ _ => s.finishMm_store .vram (vramIndex a) v, fun _ _ => s.finishMm_store .wram (wramIndex a) v,
    fun _ _ => s.finishMm_store .oam (oamIndex a) v, fun _ _ => s.finishMm_store .io (ioIndex a) v,
    fun _ _ => s.finishMm_store .hram (hramIndex a) v, fun _ => ⟨_, rfl, s.storesOnly_writeIe v⟩⟩

/-- Settles O8: every region's read is a load from its buffer, the echo's from WRAM, and R.IE reads `ie`. -/
theorem fixedRegionReads : Obligations.FixedRegionReads := fun s a =>
  ⟨fun _ _ => s.giveByte_load .vram (vramIndex a), fun _ _ => s.giveByte_load .wram (wramIndex a),
    fun _ _ => s.giveByte_load .wram (echoIndex a), fun _ _ => s.giveByte_load .oam (oamIndex a),
    fun _ _ => s.giveByte_load .io (ioIndex a), fun _ _ => s.giveByte_load .hram (hramIndex a), fun _ => rfl⟩

/-- Settles O9: R.UNMAPPED answers the constant `unmappedByte` and W.UNMAPPED puts the same memory map back. -/
theorem unmappedReadsAllOnesAndIgnoresWrites : Obligations.UnmappedReadsAllOnesAndIgnoresWrites :=
  fun _ _ _ _ _ => ⟨rfl, rfl⟩

end Sys2Proof.Proofs
end

section
/-! The rules of the CART rows of NoBanking and LinearBanking (42_mbc_nobanking_linear.md): what their words mean, what
a request does once its controller is the active one, and the bank registers as numbers. -/

namespace Sys2Proof.Machine

/-! ## The words of the CART rows (30_encoding.md R102) -/

/-- A CART word means the instruction whose request the encoder builds with it, while the instruction's variant is
active, for the instruction decodes back. -/
theorem cartMeans_of_roundTrip {var : Variant} {i : Instr} {op a : Nat} {data : Word}
    (hi : Laws.RoundTrip.Statement i) (hwf : i.WellFormed) (hv : i.variant? = some var)
    (he : encode i = { word := .cart (BitVec.ofNat 18 (op * 0x10000 + a)), data := data, image := [] }) :
    CartMeans var op a data i := by
  rw [CartMeans, ← he]
  exact hi hwf var (.inr hv)

/-! ## Bytes of the active controller -/

theorem peek_cartRom {s : State} {c : Controller} (h : s.mm.cart = some c) (i : Nat) :
    peek s (.cartRom i) = c.romImage.byte i := by
  simp only [peek, h]

theorem peek_cartRam {s : State} {c : Controller} (h : s.mm.cart = some c) (i : Nat) :
    peek s (.cartRam i) = c.ramByte i := by
  simp only [peek, h]

/-- A controller write that leaves the controller as it was changes nothing. -/
theorem State.finishCtl_self {s : State} {c : Controller} (h : s.mm.cart = some c) :
    s.finishCtl c = .next { s with resp := .done } := by
  rw [State.finishCtl_some h, ← h]

/-- A controller RAM write that reaches a cell stores there and changes nothing else. -/
theorem State.finishCtl_writeRam {s : State} {c : Controller} (h : s.mm.cart = some c) {o : RamOffset} {i : Nat}
    (ht : c.ramTarget o = some i) (v : Byte) :
    ∃ t, s.finishCtl (c.writeRam o v) = .next t ∧ StoresOnly s t (.cartRam i) (c.stored v) := by
  obtain ⟨hsans, hrom, hram⟩ := c.writeRam_spec o v
  exact ⟨_, State.finishCtl_some h _, {
    value := by rw [peek_cartRam rfl, hram, if_pos ht]
    others := by
      intro k hk
      cases k with
      | buf b j => cases b <;> rfl
      | ie => rfl
      | cartRom j => rw [peek_cartRom rfl, peek_cartRom h, hrom]
      | cartRam j =>
        have hij : c.ramTarget o ≠ some j := fun hj => hk (congrArg Loc.cartRam (Option.some.inj (hj.symm.trans ht)))
        rw [peek_cartRam rfl, peek_cartRam h, hram, if_neg hij]
    banking := by rw [h]; exact congrArg some hsans
    rf := rfl
    params := rfl
    draws := rfl
    pending := rfl
    resp := rfl }⟩

/-- A row of NoBanking runs over the active NoBanking controller. -/
theorem State.onNoBanking_cart {s : State} {c : NoBanking} (h : s.mm.cart = some (.noBanking c)) (k : NoBanking → Out) :
    s.onNoBanking k = k c :=
  State.onNoBanking_eq (MemoryMap.ctl_some h) k

/-- A row of LinearBanking runs over the active LinearBanking controller. -/
theorem State.onLinear_cart {s : State} {c : LinearBanking} (h : s.mm.cart = some (.linear c)) (k : LinearBanking → Out) :
    s.onLinear k = k c :=
  State.onLinear_eq (MemoryMap.ctl_some h) k

/-- A LinearBanking control write completes with the controller its operation gives in place. -/
theorem State.onLinear_finishCtl {s : State} {c c' : LinearBanking} (h : s.mm.cart = some (.linear c))
    (f : LinearBanking → LinearBanking) (hf : f c = c') :
    s.onLinear (fun k => s.finishCtl (.linear (f k))) =
      .next { s with mm := { s.mm with cart := some (.linear c') }, resp := .done } := by
  rw [State.onLinear_cart h, hf, State.finishCtl_some h]

/-! ## Masks and bank registers as numbers -/

/-- An `and` with the `k` low bits set is the remainder by `2 ^ k`. -/
theorem toNat_and_lowMask {w : Nat} (x : BitVec w) {k : Nat} (h : k ≤ w) :
    (x &&& BitVec.ofNat w (2 ^ k - 1)).toNat = x.toNat % 2 ^ k := by
  have hk : 2 ^ k - 1 < 2 ^ w := Nat.sub_one_lt_of_le (Nat.two_pow_pos k) (Nat.pow_le_pow_right (by decide) h)
  rw [BitVec.toNat_and, BitVec.toNat_ofNat, Nat.mod_eq_of_lt hk, Nat.and_two_pow_sub_one_eq_mod]

/-- The RAM-enable test looks at the low nibble only (R231). -/
theorem enableTest_eq (v : Byte) : enableTest v = decide (v.toNat % 16 = 10) := by
  have hv : (v &&& 0x0F).toNat = v.toNat % 16 := toNat_and_lowMask v (k := 4) (by decide)
  rw [enableTest, ← hv, Bool.eq_iff_iff, beq_iff_eq, decide_eq_true_iff, ← BitVec.toNat_inj]
  rfl

/-- A field from bit 5 up joined to a field below it is their sum. -/
theorem toNat_or_fields {x y : BitVec 7} {hi : Nat} (hx : x.toNat = hi * 32) (hy : y.toNat < 32) :
    (x ||| y).toNat = hi * 32 + y.toNat := by
  rw [BitVec.toNat_or, hx, show hi * 32 = hi <<< 5 from (Nat.shiftLeft_eq hi 5).symm, ← Nat.shiftLeft_add_eq_or_of_lt hy]

/-- The high field of a 7-bit bank register, in place: checked for its 128 values. -/
theorem toNat_high2 (x : BitVec 7) : (x &&& 0x60).toNat = x.toNat / 32 * 32 := by
  revert x
  decide

theorem toNat_low5 (x : BitVec 7) : (x &&& 0x1F).toNat = x.toNat % 32 :=
  toNat_and_lowMask x (k := 5) (by decide)

/-- A low bank field with 0 replaced by 1 (R227, R232), joined to the high field of the register. -/
theorem toNat_or_replaceZero (x lo : BitVec 7) (hlo : lo.toNat < 32) :
    ((x &&& 0x60) ||| (if lo = 0 then 1 else lo)).toNat = x.toNat / 32 * 32 + max lo.toNat 1 := by
  have hmax : (if lo = 0 then 1 else lo : BitVec 7).toNat = max lo.toNat 1 := by
    rcases eq_or_ne lo 0 with rfl | hne
    · rfl
    · have hpos : lo.toNat ≠ 0 := fun h0 => hne (BitVec.eq_of_toNat_eq h0)
      rw [if_neg hne]
      omega
  rw [toNat_or_fields (toNat_high2 x) (by omega), hmax]

/-! ## LinearBanking -/

/-- The effective ROM bank (R227). -/
theorem LinearBanking.effRomBank_toNat (c : LinearBanking) :
    c.effRomBank.toNat = c.romBankSelect.toNat / 32 * 32 + max (c.romBankSelect.toNat % 32) 1 := by
  have hlo := toNat_low5 c.romBankSelect
  rw [← hlo]
  exact toNat_or_replaceZero _ _ (by omega)

theorem LinearBanking.effRamBank_toNat (c : LinearBanking) :
    c.effRamBank.toNat = if c.bankingMode = 1 then c.ramBankSelect.toNat else 0 :=
  apply_ite BitVec.toNat _ _ _

/-- R231. -/
theorem LinearBanking.setEnable_eq (c : LinearBanking) (v : Byte) :
    c.setEnable v = { c with ramEnabled := decide (v.toNat % 16 = 10) } := by
  rw [LinearBanking.setEnable, enableTest_eq]

/-- R232. -/
theorem LinearBanking.setBankLow_eq (c : LinearBanking) (v : Byte) :
    c.setBankLow v =
      { c with romBankSelect := BitVec.ofNat 7 (c.romBankSelect.toNat / 32 * 32 + max (v.toNat % 32) 1) } := by
  have hv : (v &&& 0x1F).toNat = v.toNat % 32 := toNat_and_lowMask v (k := 5) (by decide)
  have hlo : ((v &&& 0x1F).setWidth 7).toNat = v.toNat % 32 := by rw [BitVec.toNat_setWidth, hv]; omega
  rw [← hlo, ← toNat_or_replaceZero _ _ (by omega), BitVec.ofNat_toNat, BitVec.setWidth_eq]
  rfl

/-- R233 in mode 0. -/
theorem LinearBanking.setUpper_mode0 {c : LinearBanking} (h : c.bankingMode = 0) (v : Byte) :
    c.setUpper v = { c with romBankSelect := BitVec.ofNat 7 (v.toNat % 4 * 32 + c.romBankSelect.toNat % 32) } := by
  have hv : (v &&& 0x03).toNat = v.toNat % 4 := toNat_and_lowMask v (k := 2) (by decide)
  have hhi : ((v &&& 0x03).setWidth 7 <<< 5).toNat = v.toNat % 4 * 32 := by
    rw [BitVec.toNat_shiftLeft, BitVec.toNat_setWidth, hv, Nat.shiftLeft_eq]
    omega
  have hlo := toNat_low5 c.romBankSelect
  rw [LinearBanking.setUpper, if_pos h, BitVec.or_comm, ← hlo, ← toNat_or_fields hhi (by omega), BitVec.ofNat_toNat,
    BitVec.setWidth_eq]
  rfl

/-- R233 in mode 1. -/
theorem LinearBanking.setUpper_mode1 {c : LinearBanking} (h : c.bankingMode = 1) (v : Byte) :
    c.setUpper v = { c with ramBankSelect := BitVec.ofNat 2 (v.toNat % 4) } := by
  have hv : (v &&& 0x03).toNat = v.toNat % 4 := toNat_and_lowMask v (k := 2) (by decide)
  rw [LinearBanking.setUpper, if_neg (by rw [h]; decide), ← hv, BitVec.ofNat_toNat]

/-- R234. -/
theorem LinearBanking.setMode_eq (c : LinearBanking) (v : Byte) :
    c.setMode v = { c with
      bankingMode := BitVec.ofNat 1 (v.toNat % 2)
      romBankSelect := if v.toNat % 2 = 1 then BitVec.ofNat 7 (c.romBankSelect.toNat % 32) else c.romBankSelect } := by
  have hv : (v &&& 0x01).toNat = v.toNat % 2 := toNat_and_lowMask v (k := 1) (by decide)
  have hmode : (v &&& 0x01).setWidth 1 = BitVec.ofNat 1 (v.toNat % 2) := by rw [← hv, BitVec.ofNat_toNat]
  have hone : BitVec.ofNat 1 (v.toNat % 2) = 1 ↔ v.toNat % 2 = 1 := by
    rw [← BitVec.toNat_inj, BitVec.toNat_ofNat, Nat.mod_mod]
    rfl
  rw [LinearBanking.setMode, hmode, ← toNat_low5, BitVec.ofNat_toNat, BitVec.setWidth_eq]
  simp only [hone]

/-- Every offset of every RAM bank is within the array, so an enabled RAM has a cell for each (R236). -/
theorem LinearBanking.ramCell_enabled {c : LinearBanking} (h : c.ramEnabled = true) (o : RamOffset) :
    c.ramCell o = some (c.effRamBank.toNat * 0x2000 + o.toNat) := by
  have hin : c.effRamBank.toNat * 0x2000 + o.toNat < 0x8000 := by
    have hbank := c.effRamBank.isLt
    have ho := o.isLt
    omega
  rw [LinearBanking.ramCell, if_pos h]
  exact if_pos hin

theorem LinearBanking.ramCell_disabled {c : LinearBanking} (h : c.ramEnabled = false) (o : RamOffset) :
    c.ramCell o = none := by
  rw [LinearBanking.ramCell, if_neg (by rw [h]; decide)]

end Sys2Proof.Machine
end

section
/-! The statements about NoBanking and LinearBanking (42_mbc_nobanking_linear.md R220 to R238). -/

namespace Sys2Proof.Proofs

open Sys2Proof.Machine Sys2Proof.Laws

/-- Settles O20: below 0x8000 the row reads the ROM, from there on it answers a constant. -/
theorem noBankingReadsItsRom : Obligations.NoBankingReadsItsRom := by
  intro s c a h
  refine ⟨fun ha => ⟨?word0, ?read0⟩, fun ha => ⟨?word8, State.onNoBanking_cart h _⟩⟩
  case word0 => exact cartMeans_of_roundTrip (RoundTrip.nbRead0000 a) (inRange_iff.mpr ⟨by omega, by omega⟩) rfl rfl
  case read0 =>
    rw [peek_cartRom h]
    exact State.onNoBanking_cart h _
  case word8 => exact cartMeans_of_roundTrip (RoundTrip.nbRead8000 a) (inRange_iff.mpr ⟨ha, by omega⟩) rfl rfl

/-- Settles O21: the write puts the controller back, and the RAM rows reach the cell at the offset. -/
theorem noBankingRamIsAlwaysEnabled : Obligations.NoBankingRamIsAlwaysEnabled := by
  intro s c a o v h
  refine ⟨⟨cartMeans_of_roundTrip (RoundTrip.nbWrite0000 a v) rfl rfl rfl, ?write⟩,
    ⟨cartMeans_of_roundTrip (RoundTrip.nbReadRam o) rfl rfl rfl, ?readRam⟩,
    ⟨cartMeans_of_roundTrip (RoundTrip.nbWriteRam o v) rfl rfl rfl, ?writeRam⟩⟩
  case write => exact (State.onNoBanking_cart h _).trans (State.finishCtl_self h)
  case readRam =>
    rw [peek_cartRam h]
    exact State.onNoBanking_cart h _
  case writeRam =>
    obtain ⟨t, ht, hs⟩ := State.finishCtl_writeRam h (o := o) rfl v
    exact ⟨t, (State.onNoBanking_cart h _).trans ht, hs⟩

/-- Settles O23: the bank as a sum of its fields, and the window as a bounds-checked image byte. -/
theorem linearSwitchableWindow : Obligations.LinearSwitchableWindow := by
  intro s c a bank off h hbank hoff
  have hbank' : c.effRomBank.toNat = bank := by
    rw [hbank, c.effRomBank_toNat]
    split_ifs <;> omega
  refine ⟨hbank', fun hlo hhi => ⟨?word4, ?read4⟩, fun ha => ⟨?word8, State.onLinear_cart h _⟩⟩
  case word4 => exact cartMeans_of_roundTrip (RoundTrip.lbRead4000 a) (inRange_iff.mpr ⟨hlo, hhi⟩) rfl rfl
  case read4 =>
    rw [peek_cartRom h, hoff, ← hbank']
    exact State.onLinear_cart h _
  case word8 => exact cartMeans_of_roundTrip (RoundTrip.lbRead8000 a) (inRange_iff.mpr ⟨ha, by omega⟩) rfl rfl

/-- Settles O24: each row replaces the controller by the one its register operation gives, and the lemma about that
operation says which fields differ. -/
theorem linearRegisterWrites : Obligations.LinearRegisterWrites := by
  intro s c a v h
  refine ⟨fun ha => ⟨?word0, ?enable⟩, fun hlo hhi => ⟨?word2, ?bankLow⟩,
    fun hlo hhi => ⟨?word4, fun h0 => ?upper0, fun h1 => ?upper1⟩, fun hlo hhi => ⟨?word6, ?mode⟩⟩
  case word0 => exact cartMeans_of_roundTrip (RoundTrip.lbWrite0000 a v) (inRange_iff.mpr ⟨by omega, ha⟩) rfl rfl
  case word2 => exact cartMeans_of_roundTrip (RoundTrip.lbWrite2000 a v) (inRange_iff.mpr ⟨hlo, hhi⟩) rfl rfl
  case word4 => exact cartMeans_of_roundTrip (RoundTrip.lbWrite4000 a v) (inRange_iff.mpr ⟨hlo, hhi⟩) rfl rfl
  case word6 => exact cartMeans_of_roundTrip (RoundTrip.lbWrite6000 a v) (inRange_iff.mpr ⟨hlo, hhi⟩) rfl rfl
  case enable => exact State.onLinear_finishCtl h (·.setEnable v) (c.setEnable_eq v)
  case bankLow => exact State.onLinear_finishCtl h (·.setBankLow v) (c.setBankLow_eq v)
  case upper0 => exact State.onLinear_finishCtl h (·.setUpper v) (LinearBanking.setUpper_mode0 h0 v)
  case upper1 => exact State.onLinear_finishCtl h (·.setUpper v) (LinearBanking.setUpper_mode1 h1 v)
  case mode => exact State.onLinear_finishCtl h (·.setMode v) (c.setMode_eq v)

/-- Settles O25: while RAM is enabled every offset has a cell, and while it is disabled none has. -/
theorem linearRamWindow : Obligations.LinearRamWindow := by
  intro s c o v bank h hbank
  have hbank' : c.effRamBank.toNat = bank := c.effRamBank_toNat.trans hbank.symm
  refine ⟨hbank', cartMeans_of_roundTrip (RoundTrip.lbReadRam o) rfl rfl rfl,
    cartMeans_of_roundTrip (RoundTrip.lbWriteRam o v) rfl rfl rfl, fun hen => ?enabled, fun hdis => ?disabled⟩
  case enabled =>
    have hcell : c.ramCell o = some (bank * 0x2000 + o.toNat) := hbank' ▸ c.ramCell_enabled hen o
    obtain ⟨t, ht, hs⟩ := State.finishCtl_writeRam h hcell v
    refine ⟨?_, t, (State.onLinear_cart h _).trans ht, hs⟩
    rw [peek_cartRam h]
    refine (State.onLinear_cart h _).trans ?_
    rw [LinearBanking.readRam, hcell]
    rfl
  case disabled =>
    have hcell : c.ramCell o = none := c.ramCell_disabled hdis o
    refine ⟨(State.onLinear_cart h _).trans ?_, (State.onLinear_cart h _).trans ?_⟩
    · rw [LinearBanking.readRam, hcell]
      rfl
    · rw [LinearBanking.writeRam, hcell]
      exact State.finishCtl_self h

end Sys2Proof.Proofs
end

section
/-! How a step ends (60_exceptions.md section 1): what the decoder refuses, which requests can raise or be refused, and
what the production build rules out. -/

namespace Sys2Proof.Machine

/-! ## The words the decoder refuses (30_encoding.md R112) -/

/-- The decoder refuses only a reserved CART word (R103), and records it. -/
theorem decodeCart_error {var : Variant} {c : BitVec 18} {data : Word} {e : DecodeError}
    (h : decodeCart var c data = .error e) : ReservedWord (.cart c) ∧ e = .reservedRequest (.cart c) := by
  have hop : c.getLsbD 17 = true → 0x20000 ≤ c.toNat := fun h17 => Nat.ge_two_pow_of_testBit h17
  have haddr : (c.extractLsb' 0 16).toNat = c.toNat % 0x10000 := by simp
  simp only [decodeCart] at h
  split at h
  case h_1 | h_2 => cases h
  case h_3 h17 _ | h_4 h17 _ =>
    split at h <;> cases h
    exact ⟨⟨hop h17, by omega⟩, rfl⟩

/-- The decoder refuses only a reserved REG word (R105), and records it: for `CLS` up to 2 and `SEL` within the class,
the table has a row in both directions. -/
theorem decodeReg_error {r : BitVec 8} {data : Word} {e : DecodeError} (h : decodeReg r data = .error e) :
    ReservedWord (.reg r) ∧ e = .reservedRequest (.reg r) := by
  have hcls : (r.extractLsb' 4 3).toNat = r.toNat / 16 % 8 := by simp [Nat.shiftRight_eq_div_pow]
  have hsel : (r.extractLsb' 0 4).toNat = r.toNat % 16 := by simp
  unfold decodeReg at h
  split at h <;> cases h
  refine ⟨?_, rfl⟩
  simp only [ReservedWord]
  cases hdir : r.getLsbD 7 <;> grind

/-- The decoder refuses only a reserved CTL word (R106), and records it. -/
theorem decodeCtl_error {k : BitVec 8} {data : Word} {image : List Byte} {e : DecodeError}
    (h : decodeCtl k data image = .error e) : ReservedWord (.ctl k) ∧ e = .reservedRequest (.ctl k) := by
  simp only [decodeCtl] at h
  split at h <;> cases h
  case h_3 hreset hload =>
    exact ⟨(Nat.two_le_iff _).mpr ⟨hreset, hload⟩, rfl⟩

/-- The decoder refuses only a reserved word, and records it. -/
theorem decode_error {var : Variant} {r : Request} {e : DecodeError} (h : decode var r = .error e) :
    ReservedWord r.word ∧ e = .reservedRequest r.word := by
  obtain ⟨word, data, image⟩ := r
  cases word with
  | bus q => cases h
  | cart c => exact decodeCart_error h
  | reg x => exact decodeReg_error h
  | ctl k => exact decodeCtl_error h

/-! ## How a decoded request ends -/

/-- Of the requests the decoder accepts, only the reads that reach cartridge ROM may raise and only LOADROM may be
refused: every other one completes. -/
theorem exec_decoded_ends {s : State} {r : Request} {i : Instr} (h : decode s.variant r = .ok i) :
    (∃ t, exec i s = .next t) ∨ (∃ a, exec i s = s.answerByte (s.readByte a)) ∨
    (∃ a, exec i s = s.answerByte (s.readRom a)) ∨ (∃ a, exec i s = s.answerWord (s.readWord a)) ∨
    (r.word = .ctl 0x01 ∧ i = .loadrom r.image (loByte r.data)) := by
  obtain hbyte | hrom | ⟨_, hdone⟩ | hword | ⟨_, hdone⟩ | ⟨_, hdone⟩ | ⟨_, _, hdone⟩ | ⟨_, _, hdone⟩ | ⟨_, _, hdone⟩ |
    ⟨_, _, hdone⟩ | hdone | hload := exec_decoded s r i h
  any_goals exact .inl ⟨_, hdone⟩
  · exact .inr (.inl hbyte)
  · exact .inr (.inr (.inl hrom))
  · exact .inr (.inr (.inr (.inl hword)))
  · exact .inr (.inr (.inr (.inr hload)))

theorem State.answerByte_ne_refused (s : State) (x : Except Fault (Byte × Nat)) (e : Refusal) :
    s.answerByte x ≠ .refused e := by
  cases x <;> exact nofun

theorem State.answerWord_ne_refused (s : State) (x : Except Fault (Word × Nat)) (e : Refusal) :
    s.answerWord x ≠ .refused e := by
  cases x <;> exact nofun

/-- LOADROM never raises: it is refused for an extended variant while `EXTENDED_MBC = refuse`, and otherwise completes
(41_memory_map.md R196). -/
theorem exec_loadrom_cases (image : List Byte) (code : Byte) (s : State) :
    (s.params.extendedMbc = .refuse ∧ isExtended (selectVariant code).1 = true ∧
      exec (.loadrom image code) s = .refused (.unmodelledVariant code)) ∨
    ∃ t, exec (.loadrom image code) s = .next t := by
  simp only [exec, execLoadrom]
  split
  case isTrue h =>
    obtain ⟨hext, hrefuse⟩ := Bool.and_eq_true_iff.mp h
    exact .inl ⟨eq_of_beq hrefuse, hext, rfl⟩
  case isFalse => exact .inr ⟨_, rfl⟩

/-- The one decoded request that is refused (60_exceptions.md R336). -/
theorem exec_decoded_refused {s : State} {r : Request} {i : Instr} {e : Refusal} (hdec : decode s.variant r = .ok i)
    (h : exec i s = .refused e) :
    r.word = .ctl 0x01 ∧ s.params.extendedMbc = .refuse ∧ isExtended (selectVariant (loByte r.data)).1 = true ∧
      e = .unmodelledVariant (loByte r.data) := by
  obtain ⟨t, ht⟩ | ⟨a, ha⟩ | ⟨a, ha⟩ | ⟨a, ha⟩ | ⟨hword, rfl⟩ := exec_decoded_ends hdec
  · rw [ht] at h; cases h
  · exact absurd (ha.symm.trans h) (s.answerByte_ne_refused _ e)
  · exact absurd (ha.symm.trans h) (s.answerByte_ne_refused _ e)
  · exact absurd (ha.symm.trans h) (s.answerWord_ne_refused _ e)
  · obtain ⟨hrefuse, hext, hr⟩ | ⟨t, ht⟩ := exec_loadrom_cases r.image (loByte r.data) s
    · rw [hr] at h; cases h; exact ⟨hword, hrefuse, hext, rfl⟩
    · rw [ht] at h; cases h

/-! ## The production build (R320) -/

/-- A word read completes in the production build: both its byte reads do. -/
theorem State.readWord_degrade (s : State) (a : Addr) (h : s.params.indexViolation = .degrade) :
    ∃ v n, s.readWord a = .ok (v, n) := by
  obtain ⟨lo, n, hlo⟩ := s.readByte_degrade a h
  obtain ⟨hi, n', hhi⟩ := (s.withDraws n).readByte_degrade (nextAddr a) h
  exact ⟨joinBytes hi lo, n', by simp only [State.readWord, hlo, hhi]⟩

/-- A decoded request never raises in the production build. -/
theorem exec_decoded_ne_fault {s : State} {r : Request} {i : Instr} (hdec : decode s.variant r = .ok i)
    (h : s.params.indexViolation = .degrade) (f : Fault) : exec i s ≠ .fault f := by
  obtain ⟨t, ht⟩ | ⟨a, ha⟩ | ⟨a, ha⟩ | ⟨a, ha⟩ | ⟨_, rfl⟩ := exec_decoded_ends hdec
  · rw [ht]; exact nofun
  · obtain ⟨v, n, hv⟩ := s.readByte_degrade a h
    rw [ha, hv]; exact nofun
  · obtain ⟨v, hv⟩ := s.readRom_degrade a h
    rw [ha, hv]; exact nofun
  · obtain ⟨v, n, hv⟩ := s.readWord_degrade a h
    rw [ha, hv]; exact nofun
  · obtain ⟨_, _, hr⟩ | ⟨t, ht⟩ := exec_loadrom_cases r.image (loByte r.data) s
    · rw [hr]; exact nofun
    · rw [ht]; exact nofun

/-! ## Steps -/

/-- What a step does: nothing without a request (00_scope.md R18), the refusal of a word the decoder refuses, or the
decoded request run at the state without it (20_memory.md R78). -/
theorem step_cases (s : State) :
    (s.pending = [] ∧ step s = .next s) ∨ ∃ r rest, s.pending = r :: rest ∧
      ((∃ e, decode s.variant r = .error e ∧ step s = .refused (refusalOf e)) ∨
       ∃ i, decode s.variant r = .ok i ∧ step s = exec i (s.withPending rest)) := by
  simp only [step, State.takeRequest]
  cases hp : s.pending with
  | nil => exact .inl ⟨rfl, rfl⟩
  | cons r rest =>
    refine .inr ⟨r, rest, rfl, ?_⟩
    cases hdec : decode (s.withPending rest).variant r with
    | error e => exact .inl ⟨e, hdec, by simp only [hdec]⟩
    | ok i => exact .inr ⟨i, hdec, by simp only [hdec]⟩

end Sys2Proof.Machine
end

section
/-! The statements about the ends of a step (60_exceptions.md R320 and R336). -/

namespace Sys2Proof.Proofs

open Sys2Proof.Machine

/-- Settles O52: a step that runs no request does not raise, and the request it runs does not in this build. -/
theorem noFaultInTheProductionBuild : Obligations.NoFaultInTheProductionBuild := by
  intro s f hbuild
  obtain ⟨_, hs⟩ | ⟨r, rest, _, ⟨e, _, hs⟩ | ⟨i, hdec, hs⟩⟩ := step_cases s
  · rw [hs]; exact nofun
  · rw [hs]; exact nofun
  · rw [hs]; exact exec_decoded_ne_fault (s := s.withPending rest) hdec hbuild f

/-- Settles O54: the decoder refuses a reserved word, and of the requests it accepts only LOADROM is ever refused. -/
theorem refusalsAreTheTwoTheSpecNames : Obligations.RefusalsAreTheTwoTheSpecNames := by
  intro s e h
  obtain ⟨_, hs⟩ | ⟨r, rest, hp, ⟨d, hdec, hs⟩ | ⟨i, hdec, hs⟩⟩ := step_cases s
  · rw [hs] at h; cases h
  · obtain ⟨hword, rfl⟩ := decode_error hdec
    rw [hs] at h; cases h
    exact ⟨r, rest, hp, .inl ⟨hword, rfl⟩⟩
  · exact ⟨r, rest, hp, .inr (exec_decoded_refused (s := s.withPending rest) hdec (hs.symm.trans h))⟩

end Sys2Proof.Proofs
end

section
/-! The rules of the decoder (30_encoding.md): each word is the one its fields build, what the decoder gives is a row of
the table with the word it was read from, and no reserved word has such a row. -/

namespace Sys2Proof.Machine

/-! ## Words from their fields (R101, R102, R104) -/

theorem getLsbD_toNat {w : Nat} (x : BitVec w) (i : Nat) : (x.getLsbD i).toNat = x.toNat / 2 ^ i % 2 :=
  Nat.toNat_testBit x.toNat i

theorem busWord_of_fields {q : BitVec 18} {w d : Bool} (hw : q.getLsbD 17 = w) (hd : q.getLsbD 16 = d) :
    busWord w d (q.extractLsb' 0 16) = .bus q := by
  have hq := q.isLt
  refine congrArg ReqWord.bus (BitVec.eq_of_toNat_eq ?_)
  rw [BitVec.toNat_ofNat, ← hw, ← hd, getLsbD_toNat, getLsbD_toNat, BitVec.extractLsb'_toNat, Nat.shiftRight_zero]
  omega

theorem cartWord_of_fields {c : BitVec 18} {op : BitVec 2} {a : Addr}
    (hop : op.toNat = (c.getLsbD 17).toNat * 2 + (c.getLsbD 16).toNat) (ha : a.toNat = c.toNat % 0x10000) :
    cartWord op a = .cart c := by
  have hc := c.isLt
  refine congrArg ReqWord.cart (BitVec.eq_of_toNat_eq ?_)
  rw [BitVec.toNat_ofNat, ha, hop, getLsbD_toNat, getLsbD_toNat]
  omega

theorem regWord_of_fields {r : BitVec 8} {d : Bool} {cls : BitVec 3} {sel : BitVec 4} (hd : r.getLsbD 7 = d)
    (hcls : (r.extractLsb' 4 3).toNat = cls.toNat) (hsel : (r.extractLsb' 0 4).toNat = sel.toNat) :
    regWord d cls sel = .reg r := by
  have hr := r.isLt
  refine congrArg ReqWord.reg (BitVec.eq_of_toNat_eq ?_)
  rw [BitVec.toNat_ofNat, ← hd, ← hcls, ← hsel, getLsbD_toNat, BitVec.extractLsb'_toNat, BitVec.extractLsb'_toNat,
    Nat.shiftRight_eq_div_pow, Nat.shiftRight_zero]
  omega

/-! ## Rows of the table -/

/-- `i` is a row of the table while `var` is active, its address is in the row's range, and its word is `w`. -/
structure IsRow (var : Variant) (w : ReqWord) (i : Instr) : Prop where
  wf   : i.WellFormed
  fits : i.fits var
  word : (encode i).word = w

theorem decodeRead_isRow (var : Variant) (a : Addr) : IsRow var (busWord false false a) (decodeRead a) := by
  rcases owner_cases a with k | k | k | k | k | k | k | k | k | k <;> rw [decodeRead, k.1] <;>
    exact ⟨inRange_iff.mpr (by omega), .inl rfl, rfl⟩

theorem decodeWrite_isRow (var : Variant) (a : Addr) (v : Byte) :
    IsRow var (busWord false true a) (decodeWrite a v) := by
  rcases owner_cases a with k | k | k | k | k | k | k | k | k | k <;> rw [decodeWrite, k.1] <;>
    exact ⟨inRange_iff.mpr (by omega), .inl rfl, rfl⟩

theorem decodeCartRead_isRow (var : Variant) (a : Addr) : IsRow var (cartWord 0 a) (decodeCartRead var a) := by
  have ha := a.isLt
  cases var <;> simp only [decodeCartRead] <;> split_ifs <;>
    exact ⟨inRange_iff.mpr (by omega), .inr rfl, rfl⟩

theorem decodeCartWrite_isRow (var : Variant) (a : Addr) (v : Byte) :
    IsRow var (cartWord 1 a) (decodeCartWrite var a v) := by
  have ha := a.isLt
  cases var with
  | noBanking => exact ⟨rfl, .inr rfl, rfl⟩
  | mbc2 =>
    simp only [decodeCartWrite]
    split_ifs with hlow hbit
    · exact ⟨Bool.and_eq_true_iff.mpr ⟨inRange_iff.mpr (by omega), hbit⟩, .inr rfl, rfl⟩
    · exact ⟨Bool.and_eq_true_iff.mpr ⟨inRange_iff.mpr (by omega), by rw [Bool.not_eq_true] at hbit; rw [hbit]; rfl⟩,
        .inr rfl, rfl⟩
    · exact ⟨inRange_iff.mpr (by omega), .inr rfl, rfl⟩
  | linear | mbc3 | mbc5 =>
    simp only [decodeCartWrite]
    split_ifs <;> exact ⟨inRange_iff.mpr (by omega), .inr rfl, rfl⟩

theorem decodeCartReadRam_isRow (var : Variant) (o : RamOffset) :
    IsRow var (cartWord 2 (o.setWidth 16)) (decodeCartReadRam var o) := by
  cases var <;> exact ⟨rfl, .inr rfl, rfl⟩

theorem decodeCartWriteRam_isRow (var : Variant) (o : RamOffset) (v : Byte) :
    IsRow var (cartWord 3 (o.setWidth 16)) (decodeCartWriteRam var o v) := by
  cases var <;> exact ⟨rfl, .inr rfl, rfl⟩

/-! ## What each format's decoder gives -/

theorem decodeBus_isRow (var : Variant) (q : BitVec 18) (data : Word) : IsRow var (.bus q) (decodeBus q data) := by
  simp only [decodeBus]
  split
  case h_1 h17 h16 => exact busWord_of_fields h17 h16 ▸ decodeRead_isRow var _
  case h_2 h17 h16 => exact busWord_of_fields h17 h16 ▸ decodeWrite_isRow var _ _
  case h_3 h17 h16 => exact ⟨rfl, .inl rfl, busWord_of_fields h17 h16⟩
  case h_4 h17 h16 => exact ⟨rfl, .inl rfl, busWord_of_fields h17 h16⟩

theorem decodeCart_isRow {var : Variant} {c : BitVec 18} {data : Word} {i : Instr} (h : decodeCart var c data = .ok i) :
    IsRow var (.cart c) i := by
  have haddr : (c.extractLsb' 0 16).toNat = c.toNat % 0x10000 := by simp
  have hoff : (c.extractLsb' 0 16).toNat < 0x2000 → ((c.extractLsb' 0 13).setWidth 16).toNat = c.toNat % 0x10000 := by
    intro hsmall
    rw [BitVec.toNat_setWidth, BitVec.extractLsb'_toNat, Nat.shiftRight_zero]
    omega
  simp only [decodeCart] at h
  split at h
  case h_1 h17 h16 =>
    cases h
    exact cartWord_of_fields (op := 0) (by rw [h17, h16]; rfl) haddr ▸ decodeCartRead_isRow var _
  case h_2 h17 h16 =>
    cases h
    exact cartWord_of_fields (op := 1) (by rw [h17, h16]; rfl) haddr ▸ decodeCartWrite_isRow var _ _
  case h_3 h17 h16 =>
    split at h <;> cases h
    exact cartWord_of_fields (op := 2) (by rw [h17, h16]; rfl) (hoff ‹_›) ▸ decodeCartReadRam_isRow var _
  case h_4 h17 h16 =>
    split at h <;> cases h
    exact cartWord_of_fields (op := 3) (by rw [h17, h16]; rfl) (hoff ‹_›) ▸ decodeCartWriteRam_isRow var _ _

theorem decodeReg_isRow {var : Variant} {r : BitVec 8} {data : Word} {i : Instr} (h : decodeReg r data = .ok i) :
    IsRow var (.reg r) i := by
  unfold decodeReg at h
  split at h <;> cases h
  all_goals rename_i hd hcls hsel; exact ⟨rfl, .inl rfl, regWord_of_fields hd hcls hsel⟩

theorem decodeCtl_isRow {var : Variant} {k : BitVec 8} {data : Word} {image : List Byte} {i : Instr}
    (h : decodeCtl k data image = .ok i) : IsRow var (.ctl k) i := by
  simp only [decodeCtl] at h
  split at h <;> cases h
  all_goals rename_i hk; exact ⟨rfl, .inl rfl, congrArg ReqWord.ctl (BitVec.eq_of_toNat_eq hk.symm)⟩

theorem decode_isRow {var : Variant} {r : Request} {i : Instr} (h : decode var r = .ok i) : IsRow var r.word i := by
  obtain ⟨word, data, image⟩ := r
  cases word with
  | bus q => cases h; exact decodeBus_isRow var q data
  | cart c => exact decodeCart_isRow h
  | reg x => exact decodeReg_isRow h
  | ctl k => exact decodeCtl_isRow h

/-! ## Reserved words (R103, R105, R106, R112) -/

theorem decodeCart_not_reserved {var : Variant} {c : BitVec 18} {data : Word} {i : Instr}
    (h : decodeCart var c data = .ok i) : ¬ ReservedWord (.cart c) := by
  have haddr : (c.extractLsb' 0 16).toNat = c.toNat % 0x10000 := by simp
  have hop := getLsbD_toNat c 17
  have hc := c.isLt
  rintro ⟨hram, hbig⟩
  simp only [decodeCart] at h
  split at h
  case h_1 h17 _ | h_2 h17 _ =>
    rw [h17, Bool.toNat_false] at hop
    omega
  case h_3 | h_4 =>
    split at h <;> cases h
    omega

theorem decodeReg_not_reserved {r : BitVec 8} {data : Word} {i : Instr} (h : decodeReg r data = .ok i) :
    ¬ ReservedWord (.reg r) := by
  have hcls : (r.extractLsb' 4 3).toNat = r.toNat / 16 % 8 := by simp [Nat.shiftRight_eq_div_pow]
  have hsel : (r.extractLsb' 0 4).toNat = r.toNat % 16 := by simp
  simp only [ReservedWord]
  unfold decodeReg at h
  split at h <;> cases h
  all_goals omega

theorem decodeCtl_not_reserved {k : BitVec 8} {data : Word} {image : List Byte} {i : Instr}
    (h : decodeCtl k data image = .ok i) : ¬ ReservedWord (.ctl k) := by
  simp only [ReservedWord]
  simp only [decodeCtl] at h
  split at h <;> cases h
  all_goals omega

/-- No reserved word has a meaning. -/
theorem decode_not_reserved {var : Variant} {r : Request} {i : Instr} (h : decode var r = .ok i) :
    ¬ ReservedWord r.word := by
  obtain ⟨word, data, image⟩ := r
  cases word with
  | bus q => exact id
  | cart c => exact decodeCart_not_reserved h
  | reg x => exact decodeReg_not_reserved h
  | ctl k => exact decodeCtl_not_reserved h

/-- A reserved word is refused and recorded, whatever the active variant. -/
theorem decode_of_reserved {r : Request} (h : ReservedWord r.word) (var : Variant) :
    decode var r = .error (.reservedRequest r.word) := by
  cases hd : decode var r with
  | ok i => exact absurd h (decode_not_reserved hd)
  | error e => rw [(decode_error hd).2]

theorem exists_decode_of_not_reserved {r : Request} (h : ¬ ReservedWord r.word) (var : Variant) :
    ∃ i, decode var r = .ok i := by
  cases hd : decode var r with
  | ok i => exact ⟨i, rfl⟩
  | error e => exact absurd (decode_error hd).1 h

/-- A step runs the request it takes, once decoded. -/
theorem step_of_decode {s : State} {r : Request} {rest : List Request} (hp : s.pending = r :: rest) {i : Instr}
    (hd : decode s.variant r = .ok i) : step s = exec i (s.withPending rest) := by
  have hd' : decode (s.withPending rest).variant r = .ok i := hd
  simp only [step, State.takeRequest, hp, hd']

/-- A step refuses the request it takes when the decoder does. -/
theorem step_of_decode_error {s : State} {r : Request} {rest : List Request} (hp : s.pending = r :: rest)
    {e : DecodeError} (hd : decode s.variant r = .error e) : step s = .refused (refusalOf e) := by
  have hd' : decode (s.withPending rest).variant r = .error e := hd
  simp only [step, State.takeRequest, hp, hd']

end Sys2Proof.Machine
end

section
/-! The statements about the request words (30_encoding.md), the step that decodes them, and the address decoder. -/

namespace Sys2Proof.Proofs

open Sys2Proof.Machine Sys2Proof.Laws

/-- Settles O2: every constructor has its round trip. -/
theorem decodeInvertsEncode : Obligations.DecodeInvertsEncode
  | .rRom a => RoundTrip.rRom a
  | .rVram a => RoundTrip.rVram a
  | .rCram a => RoundTrip.rCram a
  | .rWram a => RoundTrip.rWram a
  | .rEcho a => RoundTrip.rEcho a
  | .rOam a => RoundTrip.rOam a
  | .rUnmapped a => RoundTrip.rUnmapped a
  | .rIo a => RoundTrip.rIo a
  | .rHram a => RoundTrip.rHram a
  | .rIe a => RoundTrip.rIe a
  | .wRom a v => RoundTrip.wRom a v
  | .wVram a v => RoundTrip.wVram a v
  | .wCram a v => RoundTrip.wCram a v
  | .wWram a v => RoundTrip.wWram a v
  | .wEcho a v => RoundTrip.wEcho a v
  | .wOam a v => RoundTrip.wOam a v
  | .wUnmapped a v => RoundTrip.wUnmapped a v
  | .wIo a v => RoundTrip.wIo a v
  | .wHram a v => RoundTrip.wHram a v
  | .wIe a v => RoundTrip.wIe a v
  | .rdw a => RoundTrip.rdw a
  | .wrw a v => RoundTrip.wrw a v
  | .nbRead0000 a => RoundTrip.nbRead0000 a
  | .nbRead8000 a => RoundTrip.nbRead8000 a
  | .nbWrite0000 a v => RoundTrip.nbWrite0000 a v
  | .nbReadRam o => RoundTrip.nbReadRam o
  | .nbWriteRam o v => RoundTrip.nbWriteRam o v
  | .lbRead0000 a => RoundTrip.lbRead0000 a
  | .lbRead4000 a => RoundTrip.lbRead4000 a
  | .lbRead8000 a => RoundTrip.lbRead8000 a
  | .lbWrite0000 a v => RoundTrip.lbWrite0000 a v
  | .lbWrite2000 a v => RoundTrip.lbWrite2000 a v
  | .lbWrite4000 a v => RoundTrip.lbWrite4000 a v
  | .lbWrite6000 a v => RoundTrip.lbWrite6000 a v
  | .lbWrite8000 a v => RoundTrip.lbWrite8000 a v
  | .lbReadRam o => RoundTrip.lbReadRam o
  | .lbWriteRam o v => RoundTrip.lbWriteRam o v
  | .m2Read0000 a => RoundTrip.m2Read0000 a
  | .m2Read4000 a => RoundTrip.m2Read4000 a
  | .m2Read8000 a => RoundTrip.m2Read8000 a
  | .m2WriteA8Clear a v => RoundTrip.m2WriteA8Clear a v
  | .m2WriteA8Set a v => RoundTrip.m2WriteA8Set a v
  | .m2Write4000 a v => RoundTrip.m2Write4000 a v
  | .m2ReadRam o => RoundTrip.m2ReadRam o
  | .m2WriteRam o v => RoundTrip.m2WriteRam o v
  | .m3Read0000 a => RoundTrip.m3Read0000 a
  | .m3Read4000 a => RoundTrip.m3Read4000 a
  | .m3Read8000 a => RoundTrip.m3Read8000 a
  | .m3Write0000 a v => RoundTrip.m3Write0000 a v
  | .m3Write2000 a v => RoundTrip.m3Write2000 a v
  | .m3Write4000 a v => RoundTrip.m3Write4000 a v
  | .m3Write6000 a v => RoundTrip.m3Write6000 a v
  | .m3Write8000 a v => RoundTrip.m3Write8000 a v
  | .m3ReadRam o => RoundTrip.m3ReadRam o
  | .m3WriteRam o v => RoundTrip.m3WriteRam o v
  | .m5Read0000 a => RoundTrip.m5Read0000 a
  | .m5Read4000 a => RoundTrip.m5Read4000 a
  | .m5Read8000 a => RoundTrip.m5Read8000 a
  | .m5Write0000 a v => RoundTrip.m5Write0000 a v
  | .m5Write2000 a v => RoundTrip.m5Write2000 a v
  | .m5Write3000 a v => RoundTrip.m5Write3000 a v
  | .m5Write4000 a v => RoundTrip.m5Write4000 a v
  | .m5Write6000 a v => RoundTrip.m5Write6000 a v
  | .m5ReadRam o => RoundTrip.m5ReadRam o
  | .m5WriteRam o v => RoundTrip.m5WriteRam o v
  | .get8A => RoundTrip.get8A
  | .get8B => RoundTrip.get8B
  | .get8C => RoundTrip.get8C
  | .get8D => RoundTrip.get8D
  | .get8E => RoundTrip.get8E
  | .get8H => RoundTrip.get8H
  | .get8L => RoundTrip.get8L
  | .set8A v => RoundTrip.set8A v
  | .set8B v => RoundTrip.set8B v
  | .set8C v => RoundTrip.set8C v
  | .set8D v => RoundTrip.set8D v
  | .set8E v => RoundTrip.set8E v
  | .set8H v => RoundTrip.set8H v
  | .set8L v => RoundTrip.set8L v
  | .get16Af => RoundTrip.get16Af
  | .get16Bc => RoundTrip.get16Bc
  | .get16De => RoundTrip.get16De
  | .get16Hl => RoundTrip.get16Hl
  | .get16Sp => RoundTrip.get16Sp
  | .get16Pc => RoundTrip.get16Pc
  | .set16Af v => RoundTrip.set16Af v
  | .set16Bc v => RoundTrip.set16Bc v
  | .set16De v => RoundTrip.set16De v
  | .set16Hl v => RoundTrip.set16Hl v
  | .set16Sp v => RoundTrip.set16Sp v
  | .set16Pc v => RoundTrip.set16Pc v
  | .getfZ => RoundTrip.getfZ
  | .getfN => RoundTrip.getfN
  | .getfH => RoundTrip.getfH
  | .getfC => RoundTrip.getfC
  | .setfZ b => RoundTrip.setfZ b
  | .setfN b => RoundTrip.setfN b
  | .setfH b => RoundTrip.setfH b
  | .setfC b => RoundTrip.setfC b
  | .reset => RoundTrip.reset
  | .loadrom image code => RoundTrip.loadrom image code

/-- Settles O3: what the decoder gives is a row of the table with the word it was read from. -/
theorem decodedRequestsAreRowsOfTheTable : Obligations.DecodedRequestsAreRowsOfTheTable := by
  intro var r i h
  obtain ⟨hwf, hfits, hword⟩ := decode_isRow (var := var) h
  exact ⟨hwf, hfits, hword⟩

/-- Settles O4: the decoder refuses no word but a reserved one, and gives no reserved word a meaning. -/
theorem reservedWordsHaveNoMeaning : Obligations.ReservedWordsHaveNoMeaning :=
  fun var _ => ⟨fun h => decode_of_reserved h var, fun h => exists_decode_of_not_reserved h var⟩

/-- Settles O1: each word is evaluated by the decoder. -/
theorem sampleWordsDecode : Obligations.SampleWordsDecode :=
  ⟨rfl, rfl, rfl, rfl, rfl, rfl, rfl, rfl, rfl, rfl, rfl, rfl, rfl, rfl⟩

/-- Settles O5: the step decodes the request it takes, and a reserved word is refused by the decoder. -/
theorem stepRunsTheDecodedRequest : Obligations.StepRunsTheDecodedRequest :=
  fun s _ _ hp => ⟨fun _ hd => step_of_decode hp hd, fun hr => step_of_decode_error hp (decode_of_reserved hr s.variant)⟩

/-- Settles O6: there is no request to take. -/
theorem stepWithNothingWaitingChangesNothing : Obligations.StepWithNothingWaitingChangesNothing := by
  intro s hp
  simp only [step, State.takeRequest, hp]

/-- Settles O7: the ten ranges are disjoint, so the address lies in its owner's range and in no other. -/
theorem everyAddressHasOneOwner : Obligations.EveryAddressHasOneOwner := by
  intro a
  rcases owner_cases a with k | k | k | k | k | k | k | k | k | k <;> simp only [k.1, reduceCtorEq, false_iff, true_iff] <;>
    omega

/-- Settles O39: each word is the one its port encodes to, and each port reads or writes its own field. -/
theorem spPcAndSingleFlagPorts : Obligations.SpPcAndSingleFlagPorts := fun _ v b =>
  ⟨regMeans_of_roundTrip (RoundTrip.set16Sp v) rfl, rfl, regMeans_of_roundTrip (RoundTrip.set16Pc v) rfl, rfl,
    regMeans_of_roundTrip RoundTrip.getfZ rfl, rfl, regMeans_of_roundTrip (RoundTrip.setfZ b) rfl, rfl,
    regMeans_of_roundTrip RoundTrip.getfN rfl, rfl, regMeans_of_roundTrip (RoundTrip.setfN b) rfl, rfl,
    regMeans_of_roundTrip RoundTrip.getfH rfl, rfl, regMeans_of_roundTrip (RoundTrip.setfH b) rfl, rfl,
    regMeans_of_roundTrip RoundTrip.getfC rfl, rfl, regMeans_of_roundTrip (RoundTrip.setfC b) rfl, rfl⟩

end Sys2Proof.Proofs
end

section
/-! The byte writes as one small set of operations on the memory map, each with its rules: what every byte write of a
BUS or CART port amounts to (41_memory_map.md R182 to R192, 42_mbc_nobanking_linear.md R220). -/

namespace Sys2Proof.Machine

/-! ## The operations -/

/-- One byte write, as it acts on the memory map: nothing, `ie`, a buffer byte the address decoder reaches outside the
cartridge ranges, the controller's `write`, or its `writeRAM`. -/
inductive MapWrite where
  | nothing
  | ie (v : Byte)
  | store (b : Buffer) (hb : b ≠ .staging ∧ b ≠ .xram) (j : Nat) (v : Byte)
  | rom (a : Addr) (v : Byte)
  | cartRam (o : RamOffset) (v : Byte)

def MapWrite.apply (mm : MemoryMap) : MapWrite → MemoryMap
  | .nothing => mm
  | .ie v => mm.writeIe v
  | .store b _ j v => mm.store b j v
  | .rom a v => mm.writeRom a v
  | .cartRam o v => mm.withCtl (mm.ctl.writeRam o v)

/-- How many bytes of a buffer the address decoder can reach: of OAM the first 0xA0 (10_state.md R29). -/
def Buffer.reach : Buffer → Nat
  | .oam => Config.oamReachable
  | b => b.size

/-- A store whose index the address decoder reaches; the other writes have no index to bound. -/
def MapWrite.InRange : MapWrite → Prop
  | .store b _ j _ => j < b.reach
  | _ => True

/-- The index of an address in its region is below the region's size. -/
theorem index_lt {a : Addr} {lo hi n : Nat} (h : inRange a lo hi = true) (hn : hi < lo + n) : a.toNat - lo < n := by
  rw [inRange_iff] at h
  omega

/-- `write(addr, v)` is one of the operations (R182). -/
theorem MemoryMap.exists_writeByte_eq (a : Addr) (v : Byte) :
    ∃ w : MapWrite, w.InRange ∧ ∀ mm : MemoryMap, mm.writeByte a v = w.apply mm := by
  have hin {lo hi : Nat} (h : lo ≤ a.toNat ∧ a.toNat ≤ hi) := inRange_iff.mpr h
  rcases owner_cases a with k | k | k | k | k | k | k | k | k | k <;> simp only [MemoryMap.writeByte, k.1]
  · exact ⟨.rom a v, trivial, fun _ => rfl⟩
  · exact ⟨.store .vram (by decide) (vramIndex a) v, index_lt (hin k.2) (by decide), fun _ => rfl⟩
  · exact ⟨.cartRam (ramOffset a) v, trivial, fun _ => rfl⟩
  · exact ⟨.store .wram (by decide) (wramIndex a) v, index_lt (hin k.2) (by decide), fun _ => rfl⟩
  · exact ⟨.store .wram (by decide) (echoIndex a) v, index_lt (hin k.2) (by decide), fun _ => rfl⟩
  · exact ⟨.store .oam (by decide) (oamIndex a) v, index_lt (hin k.2) (by decide), fun _ => rfl⟩
  · exact ⟨.nothing, trivial, fun _ => rfl⟩
  · exact ⟨.store .io (by decide) (ioIndex a) v, index_lt (hin k.2) (by decide), fun _ => rfl⟩
  · exact ⟨.store .hram (by decide) (hramIndex a) v, index_lt (hin k.2) (by decide), fun _ => rfl⟩
  · exact ⟨.ie v, trivial, fun _ => rfl⟩

/-! ## The controller operations, with and without a controller (R195) -/

theorem MemoryMap.writeRom_none {mm : MemoryMap} (h : mm.cart = none) (a : Addr) (v : Byte) : mm.writeRom a v = mm := by
  rw [MemoryMap.writeRom, MemoryMap.ctl_none h]
  exact MemoryMap.withCtl_none h _

theorem MemoryMap.writeRom_some {mm : MemoryMap} {c : Controller} (h : mm.cart = some c) (a : Addr) (v : Byte) :
    mm.writeRom a v = { mm with cart := some (c.write a v) } := by
  rw [MemoryMap.writeRom, MemoryMap.ctl_some h, MemoryMap.withCtl_some h]

theorem MapWrite.apply_cartRam_none {mm : MemoryMap} (h : mm.cart = none) (o : RamOffset) (v : Byte) :
    (MapWrite.cartRam o v).apply mm = mm.store .xram o.toNat v := by
  rw [MapWrite.apply, MemoryMap.ctl_none h]
  exact MemoryMap.withCtl_none h _

theorem MapWrite.apply_cartRam_some {mm : MemoryMap} {c : Controller} (h : mm.cart = some c) (o : RamOffset) (v : Byte) :
    (MapWrite.cartRam o v).apply mm = { mm with cart := some (c.writeRam o v) } := by
  rw [MapWrite.apply, MemoryMap.ctl_some h, MemoryMap.withCtl_some h]

/-! ## What every byte write leaves alone -/

/-- The controller after a byte write: none where there was none, and otherwise one of the same kind over the same ROM. -/
theorem MapWrite.apply_cart (w : MapWrite) (mm : MemoryMap) :
    (w.apply mm).cart.map Controller.variant = mm.cart.map Controller.variant ∧
      (w.apply mm).cart.map Controller.romImage = mm.cart.map Controller.romImage := by
  cases w with
  | nothing | ie => exact ⟨rfl, rfl⟩
  | store b _ j v =>
    rw [MapWrite.apply, MemoryMap.store_cart]
    exact ⟨rfl, rfl⟩
  | rom a v =>
    cases hc : mm.cart with
    | none => simp only [MapWrite.apply, MemoryMap.writeRom_none hc, hc, and_self]
    | some c =>
      obtain ⟨hrom, _⟩ := c.write_storage a v
      simp only [MapWrite.apply, MemoryMap.writeRom_some hc, Option.map_some, Controller.variant_write, hrom, and_self]
  | cartRam o v =>
    cases hc : mm.cart with
    | none => simp only [MapWrite.apply_cartRam_none hc, MemoryMap.store_cart, hc, and_self]
    | some c =>
      obtain ⟨_, hrom, _⟩ := c.writeRam_spec o v
      simp only [MapWrite.apply_cartRam_some hc, Option.map_some, Controller.variant_writeRam, hrom, and_self]

/-- The active variant, from the controller's. -/
theorem MemoryMap.variant_ctl (mm : MemoryMap) : mm.ctl.variant = (mm.cart.map Controller.variant).getD .noBanking := by
  cases h : mm.cart with
  | none => rw [MemoryMap.ctl_none h]; rfl
  | some c => rw [MemoryMap.ctl_some h]; rfl

/-- A byte write leaves the active variant. -/
theorem MapWrite.variant_apply (w : MapWrite) (mm : MemoryMap) : (w.apply mm).ctl.variant = mm.ctl.variant := by
  rw [MemoryMap.variant_ctl, (w.apply_cart mm).1, ← MemoryMap.variant_ctl]

/-! ## The same byte write twice (20_memory.md R81) -/

theorem LinearBanking.setBankLow_twice (c : LinearBanking) (v : Byte) :
    (c.setBankLow v).setBankLow v = c.setBankLow v := by
  have hsel := c.romBankSelect.isLt
  simp only [LinearBanking.setBankLow_eq, BitVec.toNat_ofNat]
  congr 2
  omega

theorem LinearBanking.setUpper_twice (c : LinearBanking) (v : Byte) : (c.setUpper v).setUpper v = c.setUpper v := by
  by_cases hmode : c.bankingMode = 0
  · rw [LinearBanking.setUpper_mode0 hmode, LinearBanking.setUpper_mode0 (by exact hmode)]
    simp only [BitVec.toNat_ofNat]
    congr 2
    omega
  · simp only [LinearBanking.setUpper, if_neg hmode]

theorem LinearBanking.setMode_twice (c : LinearBanking) (v : Byte) : (c.setMode v).setMode v = c.setMode v := by
  simp only [LinearBanking.setMode_eq]
  split_ifs with hmode
  · simp only [BitVec.toNat_ofNat]
    congr 2
    omega
  · rfl

theorem LinearBanking.write_twice (c : LinearBanking) (a : Addr) (v : Byte) : (c.write a v).write a v = c.write a v := by
  unfold LinearBanking.write
  split_ifs
  · rfl
  · exact c.setBankLow_twice v
  · exact c.setUpper_twice v
  · exact c.setMode_twice v
  · rfl

theorem Controller.write_twice (c : Controller) (a : Addr) (v : Byte) : (c.write a v).write a v = c.write a v := by
  cases c with
  | noBanking c => rfl
  | linear c => exact congrArg Controller.linear (c.write_twice a v)
  | mbc2 c =>
    refine congrArg Controller.mbc2 ?_
    unfold Mbc2.write
    split_ifs <;> rfl
  | mbc3 c =>
    refine congrArg Controller.mbc3 ?_
    unfold Mbc3.write
    split_ifs <;> rfl
  | mbc5 c =>
    refine congrArg Controller.mbc5 ?_
    unfold Mbc5.write
    split_ifs <;> rfl

/-! ### RAM writes as one cell -/

/-- The controller with `v` in cell `i` of its RAM array, of an MBC2 cell the low nibble (R270). -/
def Controller.setCell (c : Controller) (i : Nat) (v : Byte) : Controller :=
  match c with
  | .noBanking c => .noBanking { c with ram := Memory.set zeroCell c.ram i v }
  | .linear c => .linear { c with ram := Memory.set zeroCell c.ram i v }
  | .mbc2 c => .mbc2 { c with ram := Memory.set zeroCell c.ram i ((v &&& 0x0F).setWidth 4) }
  | .mbc3 c => .mbc3 { c with ram := Memory.set zeroCell c.ram i v }
  | .mbc5 c => .mbc5 { c with ram := Memory.set zeroCell c.ram i v }

/-- A RAM write whose offset reaches a cell stores in that cell. -/
theorem Controller.writeRam_of_target {c : Controller} {o : RamOffset} {i : Nat} (h : c.ramTarget o = some i) (v : Byte) :
    c.writeRam o v = c.setCell i v := by
  cases c with
  | noBanking c => cases h; rfl
  | mbc2 c =>
    simp only [Controller.ramTarget] at h
    split at h <;> cases h
    exact congrArg Controller.mbc2 (if_pos ‹_›)
  | linear c | mbc3 c | mbc5 c =>
    simp only [Controller.ramTarget] at h
    simp only [Controller.writeRam, LinearBanking.writeRam, Mbc3.writeRam, Mbc5.writeRam, h]
    rfl

/-- A RAM write whose offset reaches no cell leaves the controller as it was. -/
theorem Controller.writeRam_of_no_target {c : Controller} {o : RamOffset} (h : c.ramTarget o = none) (v : Byte) :
    c.writeRam o v = c := by
  cases c with
  | noBanking c => cases h
  | mbc2 c =>
    simp only [Controller.ramTarget] at h
    split at h <;> cases h
    exact congrArg Controller.mbc2 (if_neg ‹_›)
  | linear c | mbc3 c | mbc5 c =>
    simp only [Controller.ramTarget] at h
    simp only [Controller.writeRam, LinearBanking.writeRam, Mbc3.writeRam, Mbc5.writeRam, h]

/-- The cell an offset reaches does not depend on the RAM's contents. -/
theorem Controller.ramTarget_setCell (c : Controller) (i : Nat) (v : Byte) (o : RamOffset) :
    (c.setCell i v).ramTarget o = c.ramTarget o := by
  cases c <;> rfl

theorem Controller.setCell_twice (c : Controller) (i : Nat) (v : Byte) : (c.setCell i v).setCell i v = c.setCell i v := by
  cases c <;> simp only [Controller.setCell, Memory.set_set]

theorem Controller.writeRam_twice (c : Controller) (o : RamOffset) (v : Byte) :
    (c.writeRam o v).writeRam o v = c.writeRam o v := by
  cases h : c.ramTarget o with
  | none => rw [Controller.writeRam_of_no_target h, Controller.writeRam_of_no_target h]
  | some i =>
    have h' : (c.setCell i v).ramTarget o = some i := (c.ramTarget_setCell i v o).trans h
    rw [Controller.writeRam_of_target h, Controller.writeRam_of_target h', Controller.setCell_twice]

/-- A byte write done twice is done once. -/
theorem MapWrite.apply_twice (w : MapWrite) (mm : MemoryMap) : w.apply (w.apply mm) = w.apply mm := by
  cases w with
  | nothing | ie => rfl
  | store b _ j v => exact MemoryMap.store_store ..
  | rom a v =>
    cases hc : mm.cart with
    | none => simp only [MapWrite.apply, MemoryMap.writeRom_none hc]
    | some c =>
      simp only [MapWrite.apply, MemoryMap.writeRom_some hc]
      rw [MemoryMap.writeRom_some rfl, Controller.write_twice]
  | cartRam o v =>
    cases hc : mm.cart with
    | none =>
      rw [MapWrite.apply_cartRam_none hc, MapWrite.apply_cartRam_none ((MemoryMap.store_cart ..).trans hc),
        MemoryMap.store_store]
    | some c =>
      rw [MapWrite.apply_cartRam_some hc, MapWrite.apply_cartRam_some rfl, Controller.writeRam_twice]

/-! ## Other staging and xram contents while a controller is active (10_state.md R28) -/

/-- The memory map with other contents of the two buffers that serve the cartridge before a load (R195). -/
def MemoryMap.withPreload (mm : MemoryMap) (staging xram : Memory) : MemoryMap :=
  { mm with staging := staging, xram := xram }

theorem MemoryMap.ctl_withPreload {mm : MemoryMap} {c : Controller} (h : mm.cart = some c) (x y : Memory) :
    (mm.withPreload x y).ctl = mm.ctl := by
  rw [MemoryMap.ctl_some h]
  exact MemoryMap.ctl_some h

/-- While there is a controller, a byte write neither reads nor writes the two buffers. -/
theorem MapWrite.apply_withPreload (w : MapWrite) {mm : MemoryMap} {c : Controller} (h : mm.cart = some c) (x y : Memory) :
    w.apply (mm.withPreload x y) = (w.apply mm).withPreload x y := by
  have h' : (mm.withPreload x y).cart = some c := h
  cases w with
  | nothing | ie => rfl
  | store b hb j v =>
    obtain ⟨hstaging, hxram⟩ := hb
    cases b with
    | staging => exact absurd rfl hstaging
    | xram => exact absurd rfl hxram
    | _ => rfl
  | rom a v =>
    simp only [MapWrite.apply, MemoryMap.writeRom_some h, MemoryMap.writeRom_some h']
    rfl
  | cartRam o v =>
    rw [MapWrite.apply_cartRam_some h, MapWrite.apply_cartRam_some h']
    rfl

/-- A byte write installs and removes no controller. -/
theorem MapWrite.exists_apply_cart (w : MapWrite) {mm : MemoryMap} {c : Controller} (h : mm.cart = some c) :
    ∃ c', (w.apply mm).cart = some c' := by
  have hv := (w.apply_cart mm).1
  rw [h, Option.map_some] at hv
  obtain ⟨c', hc', _⟩ := Option.map_eq_some_iff.mp hv
  exact ⟨c', hc'⟩

end Sys2Proof.Machine
end

section
/-! What a completed request did, for every instruction, well formed or not, and for every step: it read, it wrote the
register file, it did one or two byte writes, it reset, or it loaded a ROM. -/

namespace Sys2Proof

/-! ## The kind of a request, from the fields of its word -/

@[simp] theorem isRead_busWord (w d : Bool) (a : Addr) : (busWord w d a).isRead = !d := by
  obtain ⟨q, hq, _, h16, _⟩ := busWord_fields w d a
  rw [hq, ReqWord.isRead, h16]

@[simp] theorem isByteWrite_busWord (w d : Bool) (a : Addr) : (busWord w d a).isByteWrite = (d && !w) := by
  obtain ⟨q, hq, h17, h16, _⟩ := busWord_fields w d a
  rw [hq, ReqWord.isByteWrite, h17, h16]

@[simp] theorem isRead_cartWord (op : BitVec 2) (a : Addr) : (cartWord op a).isRead = !decide (op.toNat % 2 = 1) := by
  obtain ⟨c, hc, _, h16, _⟩ := cartWord_fields op a
  rw [hc, ReqWord.isRead, h16]

@[simp] theorem isByteWrite_cartWord (op : BitVec 2) (a : Addr) :
    (cartWord op a).isByteWrite = decide (op.toNat % 2 = 1) := by
  obtain ⟨c, hc, _, h16, _⟩ := cartWord_fields op a
  rw [hc, ReqWord.isByteWrite, h16]

@[simp] theorem isRead_regWord (d : Bool) (cls : BitVec 3) (sel : BitVec 4) : (regWord d cls sel).isRead = !d := by
  have hcls := cls.isLt
  have hsel := sel.isLt
  have hbit : (BitVec.ofNat 8 (d.toNat * 0x80 + cls.toNat * 0x10 + sel.toNat)).getLsbD 7 = d := by
    rw [getLsbD_ofNat_div _ _ _ (by decide)]
    cases d with
    | false => exact decide_eq_false (by simp only [Bool.toNat_false]; omega)
    | true => exact decide_eq_true (by simp only [Bool.toNat_true]; omega)
  rw [regWord, ReqWord.isRead, hbit]

@[simp] theorem isByteWrite_regWord (d : Bool) (cls : BitVec 3) (sel : BitVec 4) :
    (regWord d cls sel).isByteWrite = false := rfl

@[simp] theorem isRead_ctl (k : BitVec 8) : (ReqWord.ctl k).isRead = false := rfl

@[simp] theorem isByteWrite_ctl (k : BitVec 8) : (ReqWord.ctl k).isByteWrite = false := rfl

end Sys2Proof

namespace Sys2Proof.Machine

/-! ## CART rows run only on their own controller (30_encoding.md R102) -/

theorem State.onNoBanking_next {s t : State} {k : NoBanking → Out} (h : s.onNoBanking k = .next t) :
    ∃ c, s.mm.ctl = .noBanking c ∧ k c = .next t := by
  unfold State.onNoBanking at h
  split at h
  · exact ⟨_, ‹_›, h⟩
  · cases h

theorem State.onLinear_next {s t : State} {k : LinearBanking → Out} (h : s.onLinear k = .next t) :
    ∃ c, s.mm.ctl = .linear c ∧ k c = .next t := by
  unfold State.onLinear at h
  split at h
  · exact ⟨_, ‹_›, h⟩
  · cases h

theorem State.onMbc2_next {s t : State} {k : Mbc2 → Out} (h : s.onMbc2 k = .next t) :
    ∃ c, s.mm.ctl = .mbc2 c ∧ k c = .next t := by
  unfold State.onMbc2 at h
  split at h
  · exact ⟨_, ‹_›, h⟩
  · cases h

theorem State.onMbc3_next {s t : State} {k : Mbc3 → Out} (h : s.onMbc3 k = .next t) :
    ∃ c, s.mm.ctl = .mbc3 c ∧ k c = .next t := by
  unfold State.onMbc3 at h
  split at h
  · exact ⟨_, ‹_›, h⟩
  · cases h

theorem State.onMbc5_next {s t : State} {k : Mbc5 → Out} (h : s.onMbc5 k = .next t) :
    ∃ c, s.mm.ctl = .mbc5 c ∧ k c = .next t := by
  unfold State.onMbc5 at h
  split at h
  · exact ⟨_, ‹_›, h⟩
  · cases h

theorem fits_of_ctl {s : State} {i : Instr} {c : Controller} (h : s.mm.ctl = c) (hv : i.variant? = some c.variant) :
    i.fits s.variant :=
  .inr (by rw [hv, State.variant, h])

/-- A request that completes is a row of the active variant. -/
theorem fits_of_exec_next {i : Instr} {s t : State} (h : exec i s = .next t) : i.fits s.variant := by
  cases i with
  | nbRead0000 | nbRead8000 | nbWrite0000 | nbReadRam | nbWriteRam =>
    obtain ⟨c, hc, _⟩ := State.onNoBanking_next h
    exact fits_of_ctl hc rfl
  | lbRead0000 | lbRead4000 | lbRead8000 | lbWrite0000 | lbWrite2000 | lbWrite4000 | lbWrite6000 | lbWrite8000
  | lbReadRam | lbWriteRam =>
    obtain ⟨c, hc, _⟩ := State.onLinear_next h
    exact fits_of_ctl hc rfl
  | m2Read0000 | m2Read4000 | m2Read8000 | m2WriteA8Clear | m2WriteA8Set | m2Write4000 | m2ReadRam | m2WriteRam =>
    obtain ⟨c, hc, _⟩ := State.onMbc2_next h
    exact fits_of_ctl hc rfl
  | m3Read0000 | m3Read4000 | m3Read8000 | m3Write0000 | m3Write2000 | m3Write4000 | m3Write6000 | m3Write8000
  | m3ReadRam | m3WriteRam =>
    obtain ⟨c, hc, _⟩ := State.onMbc3_next h
    exact fits_of_ctl hc rfl
  | m5Read0000 | m5Read4000 | m5Read8000 | m5Write0000 | m5Write2000 | m5Write3000 | m5Write4000 | m5Write6000
  | m5ReadRam | m5WriteRam =>
    obtain ⟨c, hc, _⟩ := State.onMbc5_next h
    exact fits_of_ctl hc rfl
  | _ => exact .inl rfl

/-! ## Byte writes -/

/-- A row that runs as the controller `write` of some address, while its variant is active. -/
theorem exec_of_decodeCartWrite {i : Instr} {var : Variant} {a : Addr} {v : Byte} (hv : i.variant? = some var)
    (h : ∀ s, exec i s = exec (decodeCartWrite var a v) s) (s : State) (hf : i.fits s.variant) :
    exec i s = s.finishMm ((MapWrite.rom a v).apply s.mm) := by
  have hvar : var = s.variant := Laws.RoundTrip.variant_eq (hv ▸ hf)
  rw [h, hvar, exec_decodeCartWrite]
  rfl

/-- A row that runs as the controller `writeRAM`, while its variant is active. -/
theorem exec_of_decodeCartWriteRam {i : Instr} {var : Variant} {o : RamOffset} {v : Byte} (hv : i.variant? = some var)
    (h : ∀ s, exec i s = exec (decodeCartWriteRam var o v) s) (s : State) (hf : i.fits s.variant) :
    exec i s = s.finishMm ((MapWrite.cartRam o v).apply s.mm) := by
  have hvar : var = s.variant := Laws.RoundTrip.variant_eq (hv ▸ hf)
  rw [h, hvar, exec_decodeCartWriteRam]
  rfl

/-- Every byte write is one of the operations, and a well-formed one has its index in range. A controller row does not
use its address once the decoder has chosen it, so it runs as the `write` of the first address of its range. -/
theorem exec_byteWrite {i : Instr} (hw : i.isByteWrite = true) :
    ∃ w : MapWrite, (i.WellFormed → w.InRange) ∧ ∀ s, i.fits s.variant → exec i s = s.finishMm (w.apply s.mm) := by
  cases i with
  | wRom a v => exact ⟨.rom a v, fun _ => trivial, fun _ _ => rfl⟩
  | wCram a v => exact ⟨.cartRam (ramOffset a) v, fun _ => trivial, fun _ _ => rfl⟩
  | wVram a v => exact ⟨.store .vram (by decide) (vramIndex a) v, fun h => index_lt h (by decide), fun _ _ => rfl⟩
  | wWram a v => exact ⟨.store .wram (by decide) (wramIndex a) v, fun h => index_lt h (by decide), fun _ _ => rfl⟩
  | wEcho a v => exact ⟨.store .wram (by decide) (echoIndex a) v, fun h => index_lt h (by decide), fun _ _ => rfl⟩
  | wOam a v => exact ⟨.store .oam (by decide) (oamIndex a) v, fun h => index_lt h (by decide), fun _ _ => rfl⟩
  | wIo a v => exact ⟨.store .io (by decide) (ioIndex a) v, fun h => index_lt h (by decide), fun _ _ => rfl⟩
  | wHram a v => exact ⟨.store .hram (by decide) (hramIndex a) v, fun h => index_lt h (by decide), fun _ _ => rfl⟩
  | wUnmapped => exact ⟨.nothing, fun _ => trivial, fun _ _ => rfl⟩
  | wIe _ v => exact ⟨.ie v, fun _ => trivial, fun _ _ => rfl⟩
  | nbWrite0000 _ v | lbWrite0000 _ v | m2WriteA8Clear _ v | m3Write0000 _ v | m5Write0000 _ v =>
    exact ⟨.rom 0x0000 v, fun _ => trivial, exec_of_decodeCartWrite rfl fun _ => rfl⟩
  | m2WriteA8Set _ v => exact ⟨.rom 0x0100 v, fun _ => trivial, exec_of_decodeCartWrite rfl fun _ => rfl⟩
  | lbWrite2000 _ v | m3Write2000 _ v | m5Write2000 _ v =>
    exact ⟨.rom 0x2000 v, fun _ => trivial, exec_of_decodeCartWrite rfl fun _ => rfl⟩
  | m5Write3000 _ v => exact ⟨.rom 0x3000 v, fun _ => trivial, exec_of_decodeCartWrite rfl fun _ => rfl⟩
  | lbWrite4000 _ v | m2Write4000 _ v | m3Write4000 _ v | m5Write4000 _ v =>
    exact ⟨.rom 0x4000 v, fun _ => trivial, exec_of_decodeCartWrite rfl fun _ => rfl⟩
  | lbWrite6000 _ v | m3Write6000 _ v | m5Write6000 _ v =>
    exact ⟨.rom 0x6000 v, fun _ => trivial, exec_of_decodeCartWrite rfl fun _ => rfl⟩
  | lbWrite8000 _ v | m3Write8000 _ v =>
    exact ⟨.rom 0x8000 v, fun _ => trivial, exec_of_decodeCartWrite rfl fun _ => rfl⟩
  | nbWriteRam o v | lbWriteRam o v | m2WriteRam o v | m3WriteRam o v | m5WriteRam o v =>
    exact ⟨.cartRam o v, fun _ => trivial, exec_of_decodeCartWriteRam rfl fun _ => rfl⟩
  | _ => simp [Instr.isByteWrite, encode] at hw

/-- A word write is two of the operations (41_memory_map.md R194). -/
theorem exec_wrw (a : Addr) (v : Word) :
    ∃ w w' : MapWrite, w.InRange ∧ w'.InRange ∧ ∀ s, exec (.wrw a v) s = s.finishMm (w'.apply (w.apply s.mm)) := by
  obtain ⟨w, hw, hlo⟩ := MemoryMap.exists_writeByte_eq a (loByte v)
  obtain ⟨w', hw', hhi⟩ := MemoryMap.exists_writeByte_eq (nextAddr a) (hiByte v)
  refine ⟨w, w', hw, hw', fun s => ?_⟩
  rw [← hlo, ← hhi]
  rfl

/-! ## Reads -/

theorem noDraw_ok {n m : Nat} {x : Except Fault Byte} {v : Byte} (h : noDraw n x = .ok (v, m)) : m = n := by
  cases x with
  | ok b => cases h; rfl
  | error f => cases h

theorem Controller.le_draws_readRam (c : Controller) (o : RamOffset) (n : Nat) : n ≤ (c.readRam o n).2 := by
  cases c with
  | noBanking c | linear c | mbc5 c => exact Nat.le_refl n
  | mbc2 c =>
    simp only [Controller.readRam, Mbc2.readRam]
    split_ifs
    · exact Nat.le_succ n
    · exact Nat.le_refl n
  | mbc3 c =>
    simp only [Controller.readRam, Mbc3.readRam]
    split
    · exact Nat.le_refl n
    · split_ifs
      · exact Nat.le_succ n
      · exact Nat.le_refl n

theorem State.le_draws_readByte {s : State} {a : Addr} {v : Byte} {m : Nat} (h : s.readByte a = .ok (v, m)) :
    s.draws ≤ m := by
  rcases owner_cases a with k | k | k | k | k | k | k | k | k | k <;> simp only [State.readByte, k.1] at h
  case inl => exact (noDraw_ok h).ge
  case inr.inr.inl =>
    have hm : (s.readCram a).2 = m := congrArg Prod.snd (Except.ok.inj h)
    exact hm ▸ s.mm.ctl.le_draws_readRam _ _
  all_goals cases h; exact Nat.le_refl _

theorem State.le_draws_readWord {s : State} {a : Addr} {v : Word} {m : Nat} (h : s.readWord a = .ok (v, m)) :
    s.draws ≤ m := by
  unfold State.readWord at h
  split at h
  case h_1 => cases h
  case h_2 hlo =>
    split at h <;> cases h
    case h_2 hhi => exact (State.le_draws_readByte hlo).trans (State.le_draws_readByte hhi)

/-- A byte read that completes leaves everything but the response and the draws, which do not fall. -/
theorem State.answerByte_frame {s t : State} {x : Except Fault (Byte × Nat)} (h : s.answerByte x = .next t)
    (hx : ∀ v m, x = .ok (v, m) → s.draws ≤ m) :
    t = { s with draws := t.draws, resp := t.resp } ∧ s.draws ≤ t.draws := by
  obtain ⟨v, n, hv, rfl⟩ := State.answerByte_next h
  exact ⟨rfl, hx v n hv⟩

/-- A request that reads leaves everything but the response and the draws, which do not fall (20_memory.md R79). -/
theorem exec_read_frame {i : Instr} (hr : i.isRead = true) {s t : State} (h : exec i s = .next t) :
    t = { s with draws := t.draws, resp := t.resp } ∧ s.draws ≤ t.draws := by
  cases i with
  | rVram | rWram | rEcho | rOam | rUnmapped | rIo | rHram | rIe
  | get8A | get8B | get8C | get8D | get8E | get8H | get8L
  | get16Af | get16Bc | get16De | get16Hl | get16Sp | get16Pc | getfZ | getfN | getfH | getfC =>
    cases h
    exact ⟨rfl, Nat.le_refl _⟩
  | rRom => exact State.answerByte_frame h fun _ _ hx => (noDraw_ok hx).ge
  | rCram => cases h; exact ⟨rfl, s.mm.ctl.le_draws_readRam _ _⟩
  | rdw =>
    obtain ⟨v, n, hv, rfl⟩ := State.answerWord_next h
    exact ⟨rfl, State.le_draws_readWord hv⟩
  | nbRead0000 | nbRead8000 | nbReadRam =>
    obtain ⟨c, _, h⟩ := State.onNoBanking_next h
    cases h
    exact ⟨rfl, Nat.le_refl _⟩
  | lbRead4000 | lbRead8000 | lbReadRam =>
    obtain ⟨c, _, h⟩ := State.onLinear_next h
    cases h
    exact ⟨rfl, Nat.le_refl _⟩
  | m2Read4000 | m2Read8000 =>
    obtain ⟨c, _, h⟩ := State.onMbc2_next h
    cases h
    exact ⟨rfl, Nat.le_refl _⟩
  | m3Read4000 | m3Read8000 =>
    obtain ⟨c, _, h⟩ := State.onMbc3_next h
    cases h
    exact ⟨rfl, Nat.le_refl _⟩
  | m5Read4000 | m5Read8000 | m5ReadRam =>
    obtain ⟨c, _, h⟩ := State.onMbc5_next h
    cases h
    exact ⟨rfl, Nat.le_refl _⟩
  | lbRead0000 =>
    obtain ⟨c, _, h⟩ := State.onLinear_next h
    exact State.answerByte_frame h fun _ _ hx => (noDraw_ok hx).ge
  | m2Read0000 =>
    obtain ⟨c, _, h⟩ := State.onMbc2_next h
    exact State.answerByte_frame h fun _ _ hx => (noDraw_ok hx).ge
  | m3Read0000 =>
    obtain ⟨c, _, h⟩ := State.onMbc3_next h
    exact State.answerByte_frame h fun _ _ hx => (noDraw_ok hx).ge
  | m5Read0000 =>
    obtain ⟨c, _, h⟩ := State.onMbc5_next h
    exact State.answerByte_frame h fun _ _ hx => (noDraw_ok hx).ge
  | m2ReadRam o =>
    obtain ⟨c, _, h⟩ := State.onMbc2_next h
    cases h
    exact ⟨rfl, (Controller.mbc2 c).le_draws_readRam o _⟩
  | m3ReadRam o =>
    obtain ⟨c, _, h⟩ := State.onMbc3_next h
    cases h
    exact ⟨rfl, (Controller.mbc3 c).le_draws_readRam o _⟩
  | _ => simp [Instr.isRead, encode] at hr

/-! ## Every request -/

/-- What a LOADROM that completes did (41_memory_map.md R196). -/
theorem execLoadrom_next {image : List Byte} {code : Byte} {s t : State} (h : execLoadrom image code s = .next t) :
    t = (s.withMm (s.mm.loadRom s.params.ramInit (selectVariant code).1 image)).respond
      (.loaded (if (selectVariant code).2 then some code else none)) := by
  unfold execLoadrom at h
  split at h <;> cases h
  rfl

/-- What a request that completed did. -/
theorem exec_next_cases {i : Instr} {s t : State} (h : exec i s = .next t) :
    (t = { s with draws := t.draws, resp := t.resp } ∧ s.draws ≤ t.draws) ∨
    (∃ rf, t = (s.withRf rf).respond .done) ∨
    (∃ w : MapWrite, (i.WellFormed → w.InRange) ∧ t = (s.withMm (w.apply s.mm)).respond .done) ∨
    (∃ w w' : MapWrite, w.InRange ∧ w'.InRange ∧ t = (s.withMm (w'.apply (w.apply s.mm))).respond .done) ∨
    t = (s.withMm s.mm.reset).respond .done ∨
    (i.isLoadrom = true ∧ ∃ var image x, t = (s.withMm (s.mm.loadRom s.params.ramInit var image)).respond x) := by
  by_cases hr : i.isRead = true
  case pos => exact .inl (exec_read_frame hr h)
  by_cases hw : i.isByteWrite = true
  case pos =>
    obtain ⟨w, hin, hexec⟩ := exec_byteWrite hw
    rw [hexec s (fits_of_exec_next h)] at h
    cases h
    exact .inr (.inr (.inl ⟨w, hin, rfl⟩))
  cases i with
  | set8A | set8B | set8C | set8D | set8E | set8H | set8L
  | set16Af | set16Bc | set16De | set16Hl | set16Sp | set16Pc | setfZ | setfN | setfH | setfC =>
    cases h
    exact .inr (.inl ⟨_, rfl⟩)
  | wrw a v =>
    obtain ⟨w, w', hin, hin', hexec⟩ := exec_wrw a v
    rw [hexec s] at h
    cases h
    exact .inr (.inr (.inr (.inl ⟨w, w', hin, hin', rfl⟩)))
  | reset =>
    cases h
    exact .inr (.inr (.inr (.inr (.inl rfl))))
  | loadrom image code => exact .inr (.inr (.inr (.inr (.inr ⟨rfl, _, _, _, execLoadrom_next h⟩))))
  | _ => simp [Instr.isRead, Instr.isByteWrite, encode] at hr hw

/-- A property of the memory map is kept by a request that completes when the byte writes, RESET and LOADROM keep it. -/
theorem exec_keeps {P : MemoryMap → Prop} {i : Instr} {s t : State} (h : exec i s = .next t)
    (hwrite : ∀ (w : MapWrite) (mm : MemoryMap), (i.WellFormed → w.InRange) → P mm → P (w.apply mm))
    (hreset : ∀ mm : MemoryMap, P mm → P mm.reset)
    (hload : i.isLoadrom = true → ∀ (mm : MemoryMap) var image, P mm → P (mm.loadRom s.params.ramInit var image))
    (hs : P s.mm) : P t.mm := by
  obtain ⟨hread, _⟩ | ⟨_, rfl⟩ | ⟨w, hin, rfl⟩ | ⟨w, w', hin, hin', rfl⟩ | rfl | ⟨hl, _, _, _, rfl⟩ := exec_next_cases h
  · rw [hread]
    exact hs
  · exact hs
  · exact hwrite w _ hin hs
  · exact hwrite w' _ (fun _ => hin') (hwrite w _ (fun _ => hin) hs)
  · exact hreset _ hs
  · exact hload hl _ _ _ hs

/-! ## Every step -/

/-- A property of the memory map is kept by a step when the byte writes that the decoder reaches, RESET and LOADROM
keep it. -/
theorem step_keeps {P : MemoryMap → Prop} {s t : State} (h : step s = .next t)
    (hwrite : ∀ (w : MapWrite) (mm : MemoryMap), w.InRange → P mm → P (w.apply mm))
    (hreset : ∀ mm : MemoryMap, P mm → P mm.reset)
    (hload : ∀ (mm : MemoryMap) init var image, P mm → P (mm.loadRom init var image))
    (hs : P s.mm) : P t.mm := by
  obtain ⟨_, rfl⟩ | ⟨r, rest, i, _, hdec, hexec⟩ := step_next h
  · exact hs
  · have hwf : i.WellFormed := (decode_isRow hdec).wf
    exact exec_keeps (s := s.withPending rest) hexec (fun w mm hin => hwrite w mm (hin hwf)) hreset
      (fun _ mm var image => hload mm _ var image) hs

end Sys2Proof.Machine
end

section
/-! The invariant of a run (10_state.md sections 3 and 4): each part is kept by the byte writes, RESET and LOADROM. -/

namespace Sys2Proof.Machine

/-! ## The LinearBanking registers (R239, R240) -/

/-- The low ROM-bank field is not 0, and in mode 1 the high field is 0. -/
def LinearBanking.Legal (c : LinearBanking) : Prop :=
  c.romBankSelect.toNat % 32 ≠ 0 ∧ (c.bankingMode = 1 → c.romBankSelect.toNat / 32 = 0)

/-- The register value of a fresh controller is legal in either mode (10_state.md R34). -/
theorem LinearBanking.legal_of_select_one {c : LinearBanking} (h : c.romBankSelect = 1) : c.Legal := by
  rw [LinearBanking.Legal, h]
  exact ⟨by decide, fun _ => by decide⟩

theorem LinearBanking.Legal.setBankLow {c : LinearBanking} (h : c.Legal) (v : Byte) : (c.setBankLow v).Legal := by
  obtain ⟨hlo, hhi⟩ := h
  have hsel := c.romBankSelect.isLt
  rw [LinearBanking.setBankLow_eq, LinearBanking.Legal]
  simp only [BitVec.toNat_ofNat]
  exact ⟨by omega, fun hmode => by have := hhi hmode; omega⟩

theorem LinearBanking.Legal.setUpper {c : LinearBanking} (h : c.Legal) (v : Byte) : (c.setUpper v).Legal := by
  obtain ⟨hlo, hhi⟩ := h
  by_cases hmode : c.bankingMode = 0
  · rw [LinearBanking.setUpper_mode0 hmode, LinearBanking.Legal]
    simp only [BitVec.toNat_ofNat, hmode]
    exact ⟨by omega, fun h01 => absurd h01 (by decide)⟩
  · rw [LinearBanking.setUpper, if_neg hmode]
    exact ⟨hlo, hhi⟩

theorem LinearBanking.Legal.setMode {c : LinearBanking} (h : c.Legal) (v : Byte) : (c.setMode v).Legal := by
  obtain ⟨hlo, hhi⟩ := h
  rw [LinearBanking.setMode_eq, LinearBanking.Legal]
  split_ifs with hmode
  · simp only [BitVec.toNat_ofNat]
    exact ⟨by omega, fun _ => by omega⟩
  · refine ⟨hlo, fun h1 => absurd (congrArg BitVec.toNat h1) ?_⟩
    rw [BitVec.toNat_ofNat]
    exact fun h1 => hmode (by simpa using h1)

theorem LinearBanking.Legal.write {c : LinearBanking} (h : c.Legal) (a : Addr) (v : Byte) : (c.write a v).Legal := by
  unfold LinearBanking.write
  split_ifs
  · exact h
  · exact h.setBankLow v
  · exact h.setUpper v
  · exact h.setMode v
  · exact h

/-- The invariant's masks say what R239 and R240 say of the fields. -/
theorem LinearBanking.legal_iff (c : LinearBanking) :
    c.Legal ↔ c.romBankSelect &&& 0x1F ≠ 0 ∧ (c.bankingMode = 1 → c.romBankSelect &&& 0x60 = 0) := by
  have hlo : c.romBankSelect &&& 0x1F = 0 ↔ c.romBankSelect.toNat % 32 = 0 := by
    rw [← BitVec.toNat_inj, toNat_low5]
    rfl
  have hhi : c.romBankSelect &&& 0x60 = 0 ↔ c.romBankSelect.toNat / 32 = 0 := by
    rw [← BitVec.toNat_inj, toNat_high2]
    exact mul_eq_zero_iff_right (by decide)
  rw [LinearBanking.Legal, Ne, Ne, hlo, hhi]

/-! ## Controllers -/

/-- The length of a controller's RAM array (10_state.md R38). -/
def Controller.ramSize : Controller → Nat
  | .noBanking _ => Config.noBankingRamSize
  | .linear _ => Config.linearRamSize
  | .mbc2 _ => Config.mbc2Cells
  | .mbc3 _ => Config.mbc3RamSize
  | .mbc5 _ => Config.mbc5RamSize

theorem Controller.ramTarget_lt {c : Controller} {o : RamOffset} {i : Nat} (h : c.ramTarget o = some i) : i < c.ramSize := by
  have ho := o.isLt
  cases c with
  | noBanking c => cases h; exact ho
  | linear c =>
    simp only [Controller.ramTarget, LinearBanking.ramCell] at h
    split_ifs at h with _ hin
    cases h
    exact hin
  | mbc2 c =>
    simp only [Controller.ramTarget] at h
    split_ifs at h
    cases h
    have hcell : Mbc2.cell o = o.toNat % 0x200 := toNat_and_lowMask o (k := 9) (by decide)
    rw [hcell]
    exact Nat.mod_lt _ (by decide)
  | mbc3 c =>
    simp only [Controller.ramTarget, Mbc3.ramCell] at h
    split_ifs at h with _ hsel
    cases h
    show c.select.toNat * 0x2000 + o.toNat < 0x8000
    omega
  | mbc5 c =>
    simp only [Controller.ramTarget, Mbc5.ramCell] at h
    split_ifs at h
    cases h
    have hbank := c.ramBank.isLt
    show c.ramBank.toNat * 0x2000 + o.toNat < 0x20000
    omega

/-- A controller's RAM array is in canonical form. -/
def Controller.RamCanonical : Controller → Prop
  | .noBanking c => Memory.wf zeroCell Config.noBankingRamSize c.ram = true
  | .linear c => Memory.wf zeroCell Config.linearRamSize c.ram = true
  | .mbc2 c => Memory.wf zeroCell Config.mbc2Cells c.ram = true
  | .mbc3 c => Memory.wf zeroCell Config.mbc3RamSize c.ram = true
  | .mbc5 c => Memory.wf zeroCell Config.mbc5RamSize c.ram = true

/-- A controller's bank registers hold values the spec calls legal. -/
def Controller.RegistersLegal : Controller → Prop
  | .linear c => c.Legal
  | .mbc2 c => c.romBank ≠ 0
  | .mbc3 c => c.romBank ≠ 0
  | _ => True

/-- The three parts of a controller's well-formedness. -/
theorem Controller.wf_iff (c : Controller) :
    c.wf = true ↔ c.romImage.wf = true ∧ c.RamCanonical ∧ c.RegistersLegal := by
  cases c with
  | noBanking c | mbc5 c =>
    exact Bool.and_eq_true_iff.trans (and_congr_right fun _ => (and_iff_left trivial).symm)
  | linear c =>
    simp only [Controller.wf, Bool.and_eq_true, decide_eq_true_eq, and_assoc, Controller.RegistersLegal, c.legal_iff]
    rfl
  | mbc2 c | mbc3 c =>
    simp only [Controller.wf, Bool.and_eq_true, decide_eq_true_eq, and_assoc]
    rfl

theorem Controller.RamCanonical.setCell {c : Controller} (h : c.RamCanonical) {i : Nat} (hi : i < c.ramSize) (v : Byte) :
    (c.setCell i v).RamCanonical := by
  cases c <;> exact Memory.wf_set h hi

theorem Controller.wf_setCell {c : Controller} (h : c.wf = true) {i : Nat} (hi : i < c.ramSize) (v : Byte) :
    (c.setCell i v).wf = true := by
  rw [Controller.wf_iff] at h ⊢
  obtain ⟨hrom, hram, hregs⟩ := h
  refine ⟨?rom, hram.setCell hi v, ?regs⟩
  case rom => cases c <;> exact hrom
  case regs => cases c <;> exact hregs

theorem Controller.wf_writeRam {c : Controller} (h : c.wf = true) (o : RamOffset) (v : Byte) :
    (c.writeRam o v).wf = true := by
  cases ht : c.ramTarget o with
  | none => rwa [Controller.writeRam_of_no_target ht]
  | some i =>
    rw [Controller.writeRam_of_target ht]
    exact Controller.wf_setCell h (Controller.ramTarget_lt ht) v

/-- A controller write leaves the RAM array. -/
theorem Controller.RamCanonical.write {c : Controller} (h : c.RamCanonical) (a : Addr) (v : Byte) :
    (c.write a v).RamCanonical := by
  cases c with
  | noBanking c => exact h
  | linear c | mbc2 c | mbc3 c | mbc5 c =>
    obtain ⟨_, hram⟩ := c.rom_write a v
    rw [Controller.write, Controller.RamCanonical, hram]
    exact h

/-- A bank register with 0 replaced by 1 is not 0. -/
theorem replaceZero_ne_zero {w : Nat} (hw : 0 < w) (x : BitVec w) : (if x = 0 then 1 else x) ≠ 0 := by
  split_ifs with hx
  · rw [Ne, ← BitVec.toNat_inj]
    simp [hw.ne']
  · exact hx

/-- A controller write leaves legal registers legal (R239, R240, R267, R276). -/
theorem Controller.RegistersLegal.write {c : Controller} (h : c.RegistersLegal) (a : Addr) (v : Byte) :
    (c.write a v).RegistersLegal := by
  cases c with
  | noBanking c | mbc5 c => trivial
  | linear c => exact LinearBanking.Legal.write h a v
  | mbc2 c =>
    simp only [Controller.write, Controller.RegistersLegal, Mbc2.write]
    split_ifs
    · exact replaceZero_ne_zero (by decide) _
    all_goals exact h
  | mbc3 c =>
    simp only [Controller.write, Controller.RegistersLegal, Mbc3.write]
    split_ifs
    · exact h
    · exact replaceZero_ne_zero (by decide) _
    all_goals exact h

theorem Controller.wf_write {c : Controller} (h : c.wf = true) (a : Addr) (v : Byte) : (c.write a v).wf = true := by
  rw [Controller.wf_iff] at h ⊢
  obtain ⟨hrom, hram, hregs⟩ := h
  exact ⟨(c.write_storage a v).1 ▸ hrom, hram.write a v, hregs.write a v⟩

/-! ## Images and fresh controllers -/

theorem Image.wf_ofBytes (image : List Byte) : (Image.ofBytes image).wf = true :=
  Memory.wfFrom_ofBytes 0 _ image (Nat.zero_add _).le

theorem wf_stagedImage (image : List Byte) : Memory.wf zeroCell Config.stagingSize (stagedImage image) = true := by
  refine Memory.wfFrom_ofBytes 0 _ _ ?_
  rw [Nat.zero_add]
  exact List.length_take_le _ _

theorem wf_construct (init : RamInit) (var : Variant) (image : List Byte) :
    (construct init var (stagedImage image) (Image.ofBytes image)).wf = true := by
  rw [Controller.wf_iff]
  refine ⟨?rom, ?ram, ?regs⟩
  case rom =>
    cases var with
    | noBanking => exact wf_stagedImage image
    | _ => exact Image.wf_ofBytes image
  case ram => cases var <;> exact Memory.wf_fresh _ _ _
  case regs =>
    cases var with
    | noBanking | mbc5 => trivial
    | linear => exact LinearBanking.legal_of_select_one rfl
    | mbc2 => exact (by decide : (1 : BitVec 4) ≠ 0)
    | mbc3 => exact (by decide : (1 : BitVec 7) ≠ 0)

/-! ## The memory map -/

/-- The three parts of the invariant. -/
theorem MemoryMap.wf_iff (mm : MemoryMap) :
    mm.wf = true ↔ (∀ b, Memory.wf b.blank b.reach (mm.buf b) = true) ∧ (mm.cart = none → mm.staging = []) ∧
      ∀ c, mm.cart = some c → c.wf = true := by
  have hbufs : (∀ b, Memory.wf b.blank b.reach (mm.buf b) = true) ↔
      Memory.wf Buffer.staging.blank Config.stagingSize mm.staging = true ∧
      Memory.wf Buffer.vram.blank Config.vramSize mm.vram = true ∧
      Memory.wf Buffer.xram.blank Config.xramSize mm.xram = true ∧
      Memory.wf Buffer.wram.blank Config.wramSize mm.wram = true ∧
      Memory.wf Buffer.oam.blank Config.oamReachable mm.oam = true ∧
      Memory.wf Buffer.io.blank Config.ioSize mm.io = true ∧
      Memory.wf Buffer.hram.blank Config.hramSize mm.hram = true := by
    refine ⟨fun h => ⟨h .staging, h .vram, h .xram, h .wram, h .oam, h .io, h .hram⟩, ?_⟩
    rintro ⟨hstaging, hvram, hxram, hwram, hoam, hio, hhram⟩ b
    cases b <;> assumption
  rw [hbufs]
  cases hc : mm.cart with
  | none => simp [MemoryMap.wf, hc, and_assoc]
  | some c => simp [MemoryMap.wf, hc, and_assoc]

theorem MemoryMap.wf_store {mm : MemoryMap} (h : mm.wf = true) {b : Buffer} (hb : b ≠ .staging) {j : Nat}
    (hj : j < b.reach) (v : Byte) : (mm.store b j v).wf = true := by
  rw [MemoryMap.wf_iff] at h ⊢
  obtain ⟨hbufs, hstaging, hcart⟩ := h
  have hsame : (mm.store b j v).staging = mm.staging := (MemoryMap.buf_withBuf mm b .staging _).trans (if_neg hb.symm)
  rw [MemoryMap.store_cart, hsame]
  refine ⟨fun k => ?_, hstaging, hcart⟩
  rw [MemoryMap.store, MemoryMap.buf_withBuf]
  split_ifs with hk
  · rw [hk]
    exact Memory.wf_set (hbufs b) hj
  · exact hbufs k

theorem MemoryMap.wf_withCart {mm : MemoryMap} (h : mm.wf = true) {c : Controller} (hc : c.wf = true) :
    ({ mm with cart := some c } : MemoryMap).wf = true := by
  rw [MemoryMap.wf_iff] at h ⊢
  obtain ⟨hbufs, _, _⟩ := h
  refine ⟨fun b => ?_, nofun, fun c' hc' => ?_⟩
  · have hb := hbufs b
    cases b <;> exact hb
  · rwa [← Option.some.inj hc']

theorem MemoryMap.wf_cart {mm : MemoryMap} (h : mm.wf = true) {c : Controller} (hc : mm.cart = some c) : c.wf = true := by
  obtain ⟨_, _, hcart⟩ := (MemoryMap.wf_iff mm).mp h
  exact hcart c hc

/-- A byte write within reach keeps the invariant. -/
theorem MapWrite.wf_apply {w : MapWrite} (hin : w.InRange) {mm : MemoryMap} (h : mm.wf = true) : (w.apply mm).wf = true := by
  cases w with
  | nothing | ie v => exact h
  | store b hb j v =>
    obtain ⟨hb, _⟩ := hb
    exact MemoryMap.wf_store h hb hin v
  | rom a v =>
    cases hc : mm.cart with
    | none => rwa [MapWrite.apply, MemoryMap.writeRom_none hc]
    | some c =>
      rw [MapWrite.apply, MemoryMap.writeRom_some hc]
      exact MemoryMap.wf_withCart h (Controller.wf_write (MemoryMap.wf_cart h hc) a v)
  | cartRam o v =>
    cases hc : mm.cart with
    | none =>
      rw [MapWrite.apply_cartRam_none hc]
      exact MemoryMap.wf_store h (by decide) o.isLt v
    | some c =>
      rw [MapWrite.apply_cartRam_some hc]
      exact MemoryMap.wf_withCart h (Controller.wf_writeRam (MemoryMap.wf_cart h hc) o v)

theorem MemoryMap.wf_reset {mm : MemoryMap} (h : mm.wf = true) : mm.reset.wf = true := by
  rw [MemoryMap.wf_iff] at h ⊢
  obtain ⟨hbufs, hcart⟩ := h
  refine ⟨fun b => ?_, hcart⟩
  cases b with
  | staging => exact hbufs .staging
  | _ => rfl

theorem MemoryMap.wf_loadRom {mm : MemoryMap} (h : mm.wf = true) (init : RamInit) (var : Variant) (image : List Byte) :
    (mm.loadRom init var image).wf = true := by
  rw [MemoryMap.wf_iff] at h ⊢
  obtain ⟨hbufs, _, _⟩ := h
  refine ⟨fun b => ?_, nofun, fun c hc => ?_⟩
  · have hb := hbufs b
    cases b with
    | staging => exact wf_stagedImage image
    | _ => exact hb
  · rw [← Option.some.inj hc]
    exact wf_construct init var image

theorem MemoryMap.wf_fresh : MemoryMap.fresh.wf = true := rfl

/-! ## The LinearBanking registers of the active controller -/

/-- The LinearBanking controller of a memory map, if it has one, has legal registers. -/
def MemoryMap.LinearLegal (mm : MemoryMap) : Prop := ∀ c, mm.cart = some (.linear c) → c.Legal

/-- A controller other than LinearBanking has no registers for the rule to be about. -/
theorem MemoryMap.linearLegal_some {mm : MemoryMap} {k : Controller} (hk : mm.cart = some k)
    (h : ∀ c, k = .linear c → c.Legal) : mm.LinearLegal :=
  fun c hc => h c (Option.some.inj (hk.symm.trans hc))

/-- Writing the RAM array leaves the registers of a LinearBanking controller. -/
theorem LinearBanking.Legal.writeRam {c : LinearBanking} (h : c.Legal) (o : RamOffset) (v : Byte) :
    (c.writeRam o v).Legal := by
  unfold LinearBanking.writeRam
  split <;> exact h

theorem MapWrite.linearLegal_apply (w : MapWrite) {mm : MemoryMap} (h : mm.LinearLegal) : (w.apply mm).LinearLegal := by
  cases w with
  | nothing | ie v => exact h
  | store b _ j v => exact fun c hc => h c ((MemoryMap.store_cart ..).symm.trans hc)
  | rom a v =>
    cases hk : mm.cart with
    | none => rwa [MapWrite.apply, MemoryMap.writeRom_none hk]
    | some k =>
      rw [MapWrite.apply, MemoryMap.writeRom_some hk]
      refine MemoryMap.linearLegal_some rfl fun c hc => ?_
      cases k with
      | linear c₀ => cases hc; exact (h c₀ hk).write a v
      | _ => cases hc
  | cartRam o v =>
    cases hk : mm.cart with
    | none =>
      rw [MapWrite.apply_cartRam_none hk]
      exact fun c hc => h c ((MemoryMap.store_cart ..).symm.trans hc)
    | some k =>
      rw [MapWrite.apply_cartRam_some hk]
      refine MemoryMap.linearLegal_some rfl fun c hc => ?_
      cases k with
      | linear c₀ => cases hc; exact (h c₀ hk).writeRam o v
      | _ => cases hc

theorem MemoryMap.linearLegal_loadRom (mm : MemoryMap) (init : RamInit) (var : Variant) (image : List Byte) :
    (mm.loadRom init var image).LinearLegal := by
  refine MemoryMap.linearLegal_some rfl fun c hc => ?_
  cases var with
  | linear => cases hc; exact LinearBanking.legal_of_select_one rfl
  | _ => cases hc

/-! ## OAM beyond the reach of the address decoder (10_state.md R29) -/

theorem MapWrite.load_oam_apply {w : MapWrite} (hin : w.InRange) (mm : MemoryMap) {i : Nat} (hi : 0xA0 ≤ i) :
    (w.apply mm).load .oam i = mm.load .oam i := by
  cases w with
  | nothing | ie v => rfl
  | store b hb j v =>
    refine (MemoryMap.load_store ..).trans (if_neg ?_)
    rintro ⟨rfl, rfl⟩
    exact absurd hin (Nat.not_lt.mpr hi)
  | rom a v =>
    cases hc : mm.cart with
    | none => rw [MapWrite.apply, MemoryMap.writeRom_none hc]
    | some c => rw [MapWrite.apply, MemoryMap.writeRom_some hc]; rfl
  | cartRam o v =>
    cases hc : mm.cart with
    | none => rw [MapWrite.apply_cartRam_none hc]; rfl
    | some c => rw [MapWrite.apply_cartRam_some hc]; rfl

end Sys2Proof.Machine
end

section
/-! The statements about every step's invariant. -/

namespace Sys2Proof.Proofs

open Sys2Proof.Machine

/-- Settles O56: byte writes within reach, RESET and LOADROM keep the invariant, and a step does nothing else to the
memory map. -/
theorem everyStepKeepsTheInvariant : Obligations.EveryStepKeepsTheInvariant :=
  fun _ _ hs h => step_keeps (P := fun mm => mm.wf = true) h (fun _ _ hin => MapWrite.wf_apply hin)
    (fun _ => MemoryMap.wf_reset) (fun _ init var image hmm => MemoryMap.wf_loadRom hmm init var image) hs

/-- Settles O57: no byte write makes the registers illegal, RESET leaves them, and LOADROM builds legal ones. -/
theorem linearRegistersStayLegal : Obligations.LinearRegistersStayLegal :=
  fun _ _ hs h => step_keeps (P := MemoryMap.LinearLegal) h (fun w _ _ => w.linearLegal_apply)
    (fun _ hmm => hmm) (fun mm init var image _ => mm.linearLegal_loadRom init var image) hs

/-- Settles O58: a byte write within reach stores below 0xA0, RESET clears OAM, and LOADROM leaves it. -/
theorem unreachableOamBytesStayZero : Obligations.UnreachableOamBytesStayZero :=
  fun _ _ i hi _ hs h => step_keeps (P := fun mm => mm.load .oam i = 0) h
    (fun _ mm hin hmm => (MapWrite.load_oam_apply hin mm hi).trans hmm) (fun _ _ => rfl) (fun _ _ _ _ hmm => hmm) hs

/-- Settles O55: the fresh memory map lists no cell. -/
theorem constructedInstancesMeetTheInvariant : Obligations.ConstructedInstancesMeetTheInvariant :=
  ⟨MemoryMap.wf_fresh, fun _ _ => MemoryMap.wf_fresh⟩

end Sys2Proof.Proofs
end

section
/-! What a request leaves alone: the fields a step keeps, how a step raises, and what serves the cartridge before a load
once a controller is active. -/

namespace Sys2Proof.Machine

/-! ## The parameters, the waiting requests and the draws -/

theorem exec_next_frame {i : Instr} {s t : State} (h : exec i s = .next t) :
    t.params = s.params ∧ t.pending = s.pending ∧ s.draws ≤ t.draws := by
  obtain ⟨ht, hdraws⟩ | ⟨_, rfl⟩ | ⟨_, _, rfl⟩ | ⟨_, _, _, _, rfl⟩ | rfl | ⟨_, _, _, _, rfl⟩ := exec_next_cases h
  · exact ⟨by rw [ht], by rw [ht], hdraws⟩
  all_goals exact ⟨rfl, rfl, Nat.le_refl _⟩

/-! ## Raises (60_exceptions.md R321, R322) -/

/-- `f` is the raise of a bank-0 read beyond the active controller's image, in the debug build. -/
def State.ShortImageFault (s : State) (f : Fault) : Prop :=
  s.params.indexViolation = .fault ∧ ∃ (a : Addr) (c : Controller), f = .internalIndexViolation a ∧ a.toNat ≤ 0x3FFF ∧
    s.mm.cart = some c ∧ c.variant ≠ .noBanking ∧ c.romImage.len ≤ a.toNat

theorem State.readRom_error {s : State} {a : Addr} {f : Fault} (h : s.readRom a = .error f) : s.ShortImageFault f := by
  have hread : s.mm.ctl.read s.params.indexViolation a = .error f := by
    unfold State.readRom at h
    cases hx : s.mm.ctl.read s.params.indexViolation a with
    | ok v => rw [hx] at h; cases h
    | error g => rw [hx] at h; cases h; rfl
  obtain ⟨hbuild, hf, ha, hlen, hvar⟩ := Controller.read_error hread
  cases hc : s.mm.cart with
  | none => rw [MemoryMap.ctl_none hc] at hvar; exact absurd rfl hvar
  | some c =>
    rw [MemoryMap.ctl_some hc] at hlen hvar
    exact ⟨hbuild, a, c, hf, ha, hc, hvar, hlen⟩

theorem State.readByte_error {s : State} {a : Addr} {f : Fault} (h : s.readByte a = .error f) : s.ShortImageFault f := by
  rcases owner_cases a with k | k | k | k | k | k | k | k | k | k <;> simp only [State.readByte, k.1] at h
  case inl => exact State.readRom_error h
  all_goals cases h

theorem State.readWord_error {s : State} {a : Addr} {f : Fault} (h : s.readWord a = .error f) : s.ShortImageFault f := by
  unfold State.readWord at h
  split at h
  case h_1 hlo => cases h; exact State.readByte_error hlo
  case h_2 n _ =>
    split at h <;> cases h
    case h_1 hhi => exact State.readByte_error (s := s.withDraws n) hhi

theorem State.answerByte_fault {s : State} {x : Except Fault (Byte × Nat)} {f : Fault} (h : s.answerByte x = .fault f) :
    x = .error f := by
  cases x with
  | ok y => cases h
  | error g => cases h; rfl

theorem State.answerWord_fault {s : State} {x : Except Fault (Word × Nat)} {f : Fault} (h : s.answerWord x = .fault f) :
    x = .error f := by
  cases x with
  | ok y => cases h
  | error g => cases h; rfl

/-- The one way a decoded request raises. -/
theorem exec_decoded_fault {s : State} {r : Request} {i : Instr} {f : Fault} (hdec : decode s.variant r = .ok i)
    (h : exec i s = .fault f) : s.ShortImageFault f := by
  obtain ⟨t, ht⟩ | ⟨a, ha⟩ | ⟨a, ha⟩ | ⟨a, ha⟩ | ⟨_, rfl⟩ := exec_decoded_ends hdec
  · rw [ht] at h; cases h
  · exact State.readByte_error (State.answerByte_fault (ha.symm.trans h))
  · exact State.readRom_error (State.answerByte_fault (ha.symm.trans h))
  · exact State.readWord_error (State.answerWord_fault (ha.symm.trans h))
  · obtain ⟨_, _, hr⟩ | ⟨t, ht⟩ := exec_loadrom_cases r.image (loByte r.data) s
    · rw [hr] at h; cases h
    · rw [ht] at h; cases h

/-! ## Other staging and xram contents in place (10_state.md R28) -/

/-- The state with other contents of the two buffers that serve the cartridge before a load. -/
def State.withPreload (x y : Memory) (s : State) : State := s.withMm (s.mm.withPreload x y)

theorem State.answerByte_withPreload (s : State) (x y : Memory) (r : Except Fault (Byte × Nat)) :
    (s.withPreload x y).answerByte r = mapNext (State.withPreload x y) (s.answerByte r) := by
  cases r <;> rfl

theorem State.answerWord_withPreload (s : State) (x y : Memory) (r : Except Fault (Word × Nat)) :
    (s.withPreload x y).answerWord r = mapNext (State.withPreload x y) (s.answerWord r) := by
  cases r <;> rfl

theorem State.readRom_withPreload {s : State} {c : Controller} (h : s.mm.cart = some c) (x y : Memory) (a : Addr) :
    (s.withPreload x y).readRom a = s.readRom a := by
  simp only [State.readRom, State.withPreload, State.withMm_mm, MemoryMap.ctl_withPreload h, State.withMm_draws,
    State.withMm_params]

theorem State.readCram_withPreload {s : State} {c : Controller} (h : s.mm.cart = some c) (x y : Memory) (a : Addr) :
    (s.withPreload x y).readCram a = s.readCram a := by
  simp only [State.readCram, State.withPreload, State.withMm_mm, MemoryMap.ctl_withPreload h, State.withMm_draws]

theorem State.readByte_withPreload {s : State} {c : Controller} (h : s.mm.cart = some c) (x y : Memory) (a : Addr) :
    (s.withPreload x y).readByte a = s.readByte a := by
  unfold State.readByte
  rw [State.readRom_withPreload h, State.readCram_withPreload h]
  rfl

theorem State.readWord_withPreload {s : State} {c : Controller} (h : s.mm.cart = some c) (x y : Memory) (a : Addr) :
    (s.withPreload x y).readWord a = s.readWord a := by
  have hdraws (n : Nat) : ((s.withPreload x y).withDraws n).readByte (nextAddr a) = (s.withDraws n).readByte (nextAddr a) :=
    State.readByte_withPreload (s := s.withDraws n) h x y _
  simp only [State.readWord, State.readByte_withPreload h, hdraws]

/-- A CART row runs on the active controller alone. -/
theorem exec_cartRow_withPreload {i : Instr} (hi : i.variant? ≠ none) {s : State} {c : Controller} (h : s.mm.cart = some c)
    (x y : Memory) : exec i (s.withPreload x y) = mapNext (State.withPreload x y) (exec i s) := by
  obtain ⟨rf, ⟨staging, vram, xram, wram, oam, io, hram, ie, cart⟩, params, draws, pending, resp⟩ := s
  cases h
  cases i with
  | lbRead0000 =>
    cases c with
    | linear => exact State.answerByte_withPreload _ x y _
    | _ => rfl
  | m2Read0000 =>
    cases c with
    | mbc2 => exact State.answerByte_withPreload _ x y _
    | _ => rfl
  | m3Read0000 =>
    cases c with
    | mbc3 => exact State.answerByte_withPreload _ x y _
    | _ => rfl
  | m5Read0000 =>
    cases c with
    | mbc5 => exact State.answerByte_withPreload _ x y _
    | _ => rfl
  | nbRead0000 | nbRead8000 | nbReadRam | nbWrite0000 | nbWriteRam
  | lbRead4000 | lbRead8000 | lbReadRam | lbWrite0000 | lbWrite2000 | lbWrite4000 | lbWrite6000 | lbWrite8000 | lbWriteRam
  | m2Read4000 | m2Read8000 | m2WriteA8Clear | m2WriteA8Set | m2Write4000 | m2ReadRam | m2WriteRam
  | m3Read4000 | m3Read8000 | m3Write0000 | m3Write2000 | m3Write4000 | m3Write6000 | m3Write8000 | m3ReadRam | m3WriteRam
  | m5Read4000 | m5Read8000 | m5ReadRam | m5Write0000 | m5Write2000 | m5Write3000 | m5Write4000 | m5Write6000 | m5WriteRam =>
    cases c <;> rfl
  | _ => exact absurd rfl hi

theorem exec_withPreload {i : Instr} (hl : i.isLoadrom = false) (hreset : i ≠ .reset) {s : State} {c : Controller}
    (h : s.mm.cart = some c) (x y : Memory) :
    exec i (s.withPreload x y) = mapNext (State.withPreload x y) (exec i s) := by
  by_cases hi : i.variant? = none
  case neg => exact exec_cartRow_withPreload hi h x y
  by_cases hw : i.isByteWrite = true
  case pos =>
    obtain ⟨w, _, hexec⟩ := exec_byteWrite hw
    rw [hexec _ (.inl hi), hexec _ (.inl hi), State.withPreload, State.withMm_mm, w.apply_withPreload h]
    rfl
  cases i with
  | rRom a =>
    refine Eq.trans ?_ (s.answerByte_withPreload x y _)
    rw [← State.readRom_withPreload h x y]
    rfl
  | rCram a =>
    refine Eq.trans ?_ (s.answerByte_withPreload x y (.ok (s.readCram a)))
    rw [← State.readCram_withPreload h x y]
    rfl
  | rdw a =>
    refine Eq.trans ?_ (s.answerWord_withPreload x y _)
    rw [← State.readWord_withPreload h x y]
    rfl
  | wrw a v =>
    obtain ⟨w, w', _, _, hexec⟩ := exec_wrw a v
    obtain ⟨c', hc'⟩ := w.exists_apply_cart h
    rw [hexec, hexec, State.withPreload, State.withMm_mm, w.apply_withPreload h, w'.apply_withPreload hc']
    rfl
  | reset => exact absurd rfl hreset
  | loadrom image code => cases hl
  | rVram | rWram | rEcho | rOam | rUnmapped | rIo | rHram | rIe
  | get8A | get8B | get8C | get8D | get8E | get8H | get8L
  | set8A | set8B | set8C | set8D | set8E | set8H | set8L
  | get16Af | get16Bc | get16De | get16Hl | get16Sp | get16Pc
  | set16Af | set16Bc | set16De | set16Hl | set16Sp | set16Pc
  | getfZ | getfN | getfH | getfC | setfZ | setfN | setfH | setfC => rfl
  | wRom | wVram | wCram | wWram | wEcho | wOam | wUnmapped | wIo | wHram | wIe =>
    simp [Instr.isByteWrite, encode] at hw
  | _ => cases hi

end Sys2Proof.Machine
end

section
/-! The statements about what requests leave alone. -/

namespace Sys2Proof.Proofs

open Sys2Proof.Machine

/-- Settles O42: what a request that reads and completes did. -/
theorem readsHaveNoSideEffects : Obligations.ReadsHaveNoSideEffects := fun _ _ _ hr h => (exec_read_frame hr h).1

/-- Settles O43: a byte write is an operation on the memory map that done twice is done once, and it leaves the active
variant, so the second request runs as the first did. -/
theorem byteWritesAreIdempotent : Obligations.ByteWritesAreIdempotent := by
  intro i s t hw h
  obtain ⟨w, _, hexec⟩ := exec_byteWrite hw
  have hfits : i.fits s.variant := fits_of_exec_next h
  rw [hexec s hfits] at h
  cases h
  have hvar : ((s.withMm (w.apply s.mm)).respond .done).variant = s.variant := w.variant_apply s.mm
  rw [hexec _ (hvar ▸ hfits), State.respond_mm, State.withMm_mm, w.apply_twice]
  rfl

/-- Settles O44: a byte write leaves the controller's kind and ROM, and RESET leaves the controller. -/
theorem romAndVariantChangeOnlyAtALoad : Obligations.RomAndVariantChangeOnlyAtALoad := by
  intro i s t hl h
  refine exec_keeps (P := fun mm => mm.cart.map Controller.variant = s.mm.cart.map Controller.variant ∧
    mm.cart.map Controller.romImage = s.mm.cart.map Controller.romImage) h ?write (fun _ hmm => hmm) ?load ⟨rfl, rfl⟩
  case write =>
    rintro w mm _ ⟨hvar, hrom⟩
    obtain ⟨hvar', hrom'⟩ := w.apply_cart mm
    exact ⟨hvar'.trans hvar, hrom'.trans hrom⟩
  case load =>
    intro hl'
    rw [hl] at hl'
    cases hl'

/-- Settles O45: the reads and writes of a BUS or CART port reach neither buffer while there is a controller. -/
theorem stagingAndXramAreOutOfReachOnceLoaded : Obligations.StagingAndXramAreOutOfReachOnceLoaded :=
  fun _ _ _ x y h hl hreset => exec_withPreload hl hreset h x y

/-- Settles O53: the decoder's refusals are no faults, and of the requests it accepts only the reads of cartridge ROM
raise. -/
theorem theOnlyFaultIsAShortImageInTheDebugBuild : Obligations.TheOnlyFaultIsAShortImageInTheDebugBuild := by
  intro s f h
  obtain ⟨_, hs⟩ | ⟨r, rest, _, ⟨e, _, hs⟩ | ⟨i, hdec, hs⟩⟩ := step_cases s
  · rw [hs] at h; cases h
  · rw [hs] at h; cases h
  · exact exec_decoded_fault (s := s.withPending rest) hdec (hs.symm.trans h)

/-- Settles O59: the step takes the oldest request off the list, and the request run leaves the rest. -/
theorem noRequestChangesTheParameters : Obligations.NoRequestChangesTheParameters := by
  intro s t h
  obtain ⟨hp, rfl⟩ | ⟨r, rest, i, hp, _, hexec⟩ := step_next h
  · exact ⟨rfl, by rw [hp, List.tail_nil], Nat.le_refl _⟩
  · obtain ⟨hparams, hpending, hdraws⟩ := exec_next_frame hexec
    exact ⟨hparams, by rw [hpending, hp]; rfl, hdraws⟩

end Sys2Proof.Proofs
end

section
/-! The rules of the cartridge ranges and of the word accesses (41_memory_map.md sections 2 to 5): what a request in a
cartridge range reads and stores, and which byte each address of plain storage holds. -/

namespace Sys2Proof.Machine

/-! ## The cartridge ranges (R172, R174, R183, R185) -/

theorem ramOffset_toNat {a : Addr} (hlo : 0xA000 ≤ a.toNat) (hhi : a.toNat ≤ 0xBFFF) :
    (ramOffset a).toNat = a.toNat - 0xA000 := by
  rw [ramOffset, BitVec.toNat_ofNat]
  omega

/-- A write that stores one byte leaves everything outside the memory map but the response. -/
theorem StoresOnly.frame {s t : State} {l : Loc} {v : Byte} (h : StoresOnly s t l v) :
    t = { s with mm := t.mm, resp := .done } := by
  obtain ⟨rf, mm, params, draws, pending, resp⟩ := t
  obtain ⟨_, _, _, rfl, rfl, rfl, rfl, rfl⟩ := h
  rfl

/-- W.ROM changes no byte of storage: without a controller it changes nothing, and a controller's `write` changes
neither its ROM nor its RAM. -/
theorem peek_writeRom (s : State) (a : Addr) (v : Byte) (l : Loc) :
    peek ((s.withMm (s.mm.writeRom a v)).respond .done) l = peek s l := by
  cases hc : s.mm.cart with
  | none =>
    rw [MemoryMap.writeRom_none hc]
    rfl
  | some c =>
    obtain ⟨hrom, hram⟩ := c.write_storage a v
    rw [MemoryMap.writeRom_some hc]
    cases l with
    | buf b i => cases b <;> rfl
    | ie => rfl
    | cartRom i => rw [peek_cartRom rfl, peek_cartRom hc, hrom]
    | cartRam i => rw [peek_cartRam rfl, peek_cartRam hc, hram]

/-- Before a load W.CRAM stores in `xram` (R195). -/
theorem exec_wCram_none {s : State} (h : s.mm.cart = none) (a : Addr) (v : Byte) :
    ∃ t, exec (.wCram a v) s = .next t ∧ StoresOnly s t (.buf .xram (ramOffset a).toNat) v := by
  have hexec : exec (.wCram a v) s = s.finishMm ((MapWrite.cartRam (ramOffset a) v).apply s.mm) := rfl
  rw [hexec, MapWrite.apply_cartRam_none h]
  exact s.finishMm_store .xram _ v

/-- W.CRAM changes nothing, or stores in the one cell it reaches. -/
theorem exec_wCram_cases (s : State) (a : Addr) (v : Byte) :
    (cramTarget s a = none ∧ exec (.wCram a v) s = .next { s with resp := .done }) ∨
    ∃ l u t, cramTarget s a = some l ∧ exec (.wCram a v) s = .next t ∧ StoresOnly s t l u := by
  cases hc : s.mm.cart with
  | none =>
    obtain ⟨t, ht, hs⟩ := exec_wCram_none hc a v
    exact .inr ⟨_, v, t, by rw [cramTarget, hc], ht, hs⟩
  | some c =>
    have hexec : exec (.wCram a v) s = s.finishCtl (c.writeRam (ramOffset a) v) := by
      rw [← MemoryMap.ctl_some hc]
      rfl
    have htarget : cramTarget s a = (c.ramTarget (ramOffset a)).map .cartRam := by rw [cramTarget, hc]
    cases hcell : c.ramTarget (ramOffset a) with
    | none =>
      rw [Controller.writeRam_of_no_target hcell, State.finishCtl_self hc] at hexec
      exact .inl ⟨by rw [htarget, hcell]; rfl, hexec⟩
    | some i =>
      obtain ⟨t, ht, hs⟩ := State.finishCtl_writeRam hc hcell v
      exact .inr ⟨_, _, t, by rw [htarget, hcell]; rfl, hexec.trans ht, hs⟩

/-- Before a load a ROM-range read is a read of `staging` (R195). -/
theorem State.readRom_none {s : State} (h : s.mm.cart = none) {a : Addr} (ha : a.toNat ≤ 0x7FFF) :
    s.readRom a = .ok (peek s (.buf .staging a.toNat), s.draws) := by
  have hread : NoBanking.read { rom := s.mm.staging, ram := s.mm.xram } a = peek s (.buf .staging a.toNat) :=
    if_pos (Nat.lt_succ_of_le ha)
  rw [State.readRom, MemoryMap.ctl_none h, Controller.read, hread]
  rfl

/-- Before a load a RAM-range read is a read of `xram` (R195). -/
theorem State.readCram_none {s : State} (h : s.mm.cart = none) (a : Addr) :
    s.readCram a = (peek s (.buf .xram (ramOffset a).toNat), s.draws) := by
  rw [State.readCram, MemoryMap.ctl_none h]
  rfl

/-! ## Addresses of the word accesses (R193, R194) -/

/-- The echo address of a WRAM byte is 0x2000 above its own (R176, R187). -/
theorem wramIndex_sub {a : Addr} (h : 0xE000 ≤ a.toNat) : wramIndex (a - 0x2000) = echoIndex a := by
  have hsub : (a - 0x2000).toNat = a.toNat - 0x2000 := by
    rw [BitVec.toNat_sub_of_le (BitVec.le_def.mpr (le_trans (by decide) h))]
    rfl
  unfold wramIndex echoIndex
  rw [hsub, Nat.sub_sub]

theorem toNat_hiByte (v : Word) : (hiByte v).toNat = v.toNat / 256 := by
  have hv := v.isLt
  rw [hiByte_eq, BitVec.toNat_ofNat]
  omega

theorem toNat_loByte (v : Word) : (loByte v).toNat = v.toNat % 256 := by
  rw [loByte_eq, BitVec.toNat_ofNat, Nat.mod_mod]

theorem joinBytes_halves (v : Word) : joinBytes (hiByte v) (loByte v) = v := by
  rw [joinBytes_eq, hiByte_eq, loByte_eq, ofNat_halves]

/-! ## Plain storage (20_memory.md R81) -/

/-- The byte of storage an address of plain storage holds. -/
def plainLoc (a : Addr) : Loc :=
  match owner a with
  | .vram => .buf .vram (vramIndex a)
  | .wram => .buf .wram (wramIndex a)
  | .echo => .buf .wram (echoIndex a)
  | .oam => .buf .oam (oamIndex a)
  | .io => .buf .io (ioIndex a)
  | .hram => .buf .hram (hramIndex a)
  | _ => .ie

/-- The owners of plain storage. -/
theorem PlainStorage.owner_cases {a : Addr} (h : PlainStorage a) :
    (owner a = .vram ∧ 0x8000 ≤ a.toNat ∧ a.toNat ≤ 0x9FFF) ∨ (owner a = .wram ∧ 0xC000 ≤ a.toNat ∧ a.toNat ≤ 0xDFFF) ∨
    (owner a = .echo ∧ 0xE000 ≤ a.toNat ∧ a.toNat ≤ 0xFDFF) ∨ (owner a = .oam ∧ 0xFE00 ≤ a.toNat ∧ a.toNat ≤ 0xFE9F) ∨
    (owner a = .io ∧ 0xFF00 ≤ a.toNat ∧ a.toNat ≤ 0xFF7F) ∨ (owner a = .hram ∧ 0xFF80 ≤ a.toNat ∧ a.toNat ≤ 0xFFFE) ∨
    (owner a = .ie ∧ a.toNat = 0xFFFF) := by
  unfold PlainStorage at h
  rcases Sys2Proof.owner_cases a with k | k | k | k | k | k | k | k | k | k <;> simp only [k.1, reduceCtorEq, false_and,
    true_and, false_or, or_false] <;> omega

/-- A byte read of plain storage answers the byte it holds. -/
theorem State.readByte_plain {a : Addr} (h : PlainStorage a) (s : State) :
    s.readByte a = .ok (peek s (plainLoc a), s.draws) := by
  rcases h.owner_cases with k | k | k | k | k | k | k <;> simp only [State.readByte, plainLoc, k.1] <;> rfl

/-- A byte write of plain storage stores its byte and does nothing else. -/
theorem State.storesOnly_writeByte {a : Addr} (h : PlainStorage a) (s : State) (v : Byte) :
    StoresOnly s ((s.withMm (s.mm.writeByte a v)).respond .done) (plainLoc a) v := by
  rcases h.owner_cases with k | k | k | k | k | k | k <;> simp only [MemoryMap.writeByte, plainLoc, k.1]
  case inr.inr.inr.inr.inr.inr => exact s.storesOnly_writeIe v
  all_goals exact s.storesOnly_store _ _ v

/-- The lowest address that reaches a byte of plain storage. -/
def Loc.address : Loc → Nat
  | .buf .vram i => 0x8000 + i
  | .buf .wram i => 0xC000 + i
  | .buf .oam i => 0xFE00 + i
  | .buf .io i => 0xFF00 + i
  | .buf .hram i => 0xFF80 + i
  | _ => 0xFFFF

theorem address_plainLoc {a : Addr} (h : PlainStorage a) :
    (plainLoc a).address = if 0xE000 ≤ a.toNat ∧ a.toNat ≤ 0xFDFF then a.toNat - 0x2000 else a.toNat := by
  rcases h.owner_cases with k | k | k | k | k | k | k <;> simp only [plainLoc, k.1, Loc.address]
  case inr.inr.inl =>
    rw [if_pos k.2]
    show 0xC000 + (a.toNat - 0xE000) = a.toNat - 0x2000
    omega
  case inr.inr.inr.inr.inr.inr => rw [if_neg (by omega), k.2]
  all_goals
    rw [if_neg (by omega)]
    exact Nat.add_sub_cancel' k.2.1

/-- The two bytes of a word in plain storage are different bytes. -/
theorem plainLoc_ne_succ {a : Addr} (h : PlainStorage a) (h' : PlainStorage (a + 1)) : plainLoc a ≠ plainLoc (a + 1) := by
  intro heq
  have haddr := congrArg Loc.address heq
  have hsucc : (a + 1).toNat = (a.toNat + 1) % 0x10000 := BitVec.toNat_add a 1
  rw [address_plainLoc h, address_plainLoc h', hsucc] at haddr
  have ha := a.isLt
  unfold PlainStorage at h h'
  split_ifs at haddr <;> omega

/-- A word write of plain storage leaves each half in its own byte. -/
theorem exec_wrw_plain {a : Addr} (h : PlainStorage a) (h' : PlainStorage (a + 1)) (s : State) (v : Word) :
    ∃ t, exec (.wrw a v) s = .next t ∧ peek t (plainLoc a) = loByte v ∧ peek t (plainLoc (a + 1)) = hiByte v := by
  have hfirst := State.storesOnly_writeByte h s (loByte v)
  have hsecond := State.storesOnly_writeByte h' ((s.withMm (s.mm.writeByte a (loByte v))).respond .done) (hiByte v)
  exact ⟨_, rfl, (hsecond.others _ (plainLoc_ne_succ h h')).trans hfirst.value, hsecond.value⟩

/-! ## A word write across the mode register (R233, R234) -/

/-- The low byte written to the upper bank bits under the old mode, then the high byte to the mode. -/
theorem LinearBanking.setUpper_setMode (c : LinearBanking) (v : Word) :
    (c.setUpper (loByte v)).setMode (hiByte v) = { c with
      bankingMode := BitVec.ofNat 1 (v.toNat / 256)
      ramBankSelect := if c.bankingMode = 0 then c.ramBankSelect else BitVec.ofNat 2 (v.toNat % 4)
      romBankSelect :=
        if v.toNat / 256 % 2 = 1 then BitVec.ofNat 7 (c.romBankSelect.toNat % 32)
        else if c.bankingMode = 0 then BitVec.ofNat 7 (v.toNat % 4 * 32 + c.romBankSelect.toNat % 32)
        else c.romBankSelect } := by
  have hlo : (loByte v).toNat % 4 = v.toNat % 4 := by rw [toNat_loByte]; omega
  have hbit : BitVec.ofNat 1 (v.toNat / 256 % 2) = BitVec.ofNat 1 (v.toNat / 256) := by
    rw [← BitVec.toNat_inj, BitVec.toNat_ofNat, BitVec.toNat_ofNat, Nat.mod_mod]
  by_cases hmode : c.bankingMode = 0
  · have hlow : BitVec.ofNat 7 ((BitVec.ofNat 7 (v.toNat % 4 * 32 + c.romBankSelect.toNat % 32)).toNat % 32) =
        BitVec.ofNat 7 (c.romBankSelect.toNat % 32) := by
      rw [BitVec.toNat_ofNat]
      congr 1
      omega
    rw [LinearBanking.setUpper_mode0 hmode, LinearBanking.setMode_eq, toNat_hiByte, hlo, hbit, if_pos hmode, if_pos hmode,
      hlow]
  · have hone : c.bankingMode = 1 := by
      have hbound := c.bankingMode.isLt
      rw [← BitVec.toNat_inj] at hmode ⊢
      exact Nat.le_antisymm (Nat.le_of_lt_succ hbound) (Nat.pos_of_ne_zero hmode)
    rw [LinearBanking.setUpper_mode1 hone, LinearBanking.setMode_eq, toNat_hiByte, hlo, hbit, if_neg hmode, if_neg hmode]

end Sys2Proof.Machine
end

section
/-! The statements about the memory map's byte and word accesses (20_memory.md, 41_memory_map.md sections 2 to 5). -/

namespace Sys2Proof.Proofs

open Sys2Proof.Machine

/-- Settles O10: the byte read of an address is `read(addr)`, which this build completes. -/
theorem everyByteReadCompletesInTheProductionBuild : Obligations.EveryByteReadCompletesInTheProductionBuild := by
  intro s a hbuild
  obtain ⟨v, n, hread⟩ := s.readByte_degrade a hbuild
  exact ⟨v, n, by rw [exec_decodeRead, hread]; rfl⟩

/-- Settles O11: the reads answer, a controller's `write` changes no byte, and its `writeRAM` the one cell it reaches. -/
theorem cartridgeWindowsComplete : Obligations.CartridgeWindowsComplete := by
  intro s a v
  refine ⟨fun _ hbuild => ?rom, fun _ _ => ⟨_, _, rfl⟩, fun _ => ?wRom, fun _ _ => ?wCram⟩
  case rom =>
    obtain ⟨b, hread⟩ := s.readRom_degrade a hbuild
    exact ⟨b, congrArg s.answerByte hread⟩
  case wRom =>
    obtain ⟨hvar, _⟩ := (MapWrite.rom a v).apply_cart s.mm
    exact ⟨_, rfl, rfl, peek_writeRom s a v, hvar⟩
  case wCram =>
    obtain ⟨hnone, hexec⟩ | ⟨l, u, t, hl, hexec, hs⟩ := exec_wCram_cases s a v
    · exact ⟨_, hexec, rfl, fun _ _ => rfl, rfl, fun _ => rfl⟩
    · refine ⟨t, hexec, hs.frame, fun k hk => hs.others k ?_, hs.banking, fun hnone => ?_⟩
      · rintro rfl
        exact hk hl
      · rw [hl] at hnone
        cases hnone

/-- Settles O12: the word decodes by the active variant's rows, which are the active controller's own operations. -/
theorem cartridgeWindowsAskTheActiveController : Obligations.CartridgeWindowsAskTheActiveController := by
  intro s a v i
  refine ⟨fun _ h => ?read, fun _ h => ?write, fun _ hhi h => ?readRam, fun _ hhi h => ?writeRam⟩
  case read => rw [← cartMeans_read.mp h, exec_decodeCartRead]; rfl
  case write => rw [← cartMeans_write.mp h, exec_decodeCartWrite]; rfl
  case readRam => rw [← (cartMeans_readRam (by omega)).mp h, exec_decodeCartReadRam]; rfl
  case writeRam => rw [← (cartMeans_writeRam (by omega)).mp h, exec_decodeCartWriteRam]; rfl

/-- Settles O14: the two ranges reach WRAM at the same index. -/
theorem echoIsWramInBothDirections : Obligations.EchoIsWramInBothDirections := by
  intro s a v hlo _
  have hindex := wramIndex_sub hlo
  refine ⟨?read, ?write, s.finishMm_store .wram (echoIndex a) v⟩
  case read => exact congrArg (fun j => s.giveByte (s.mm.load .wram j)) hindex.symm
  case write => exact congrArg (fun j => s.finishMm (s.mm.store .wram j v)) hindex.symm

/-- Settles O15: a word access runs the two byte accesses in order, the second at the state the first leaves. -/
theorem wordAccessesAreLittleEndian : Obligations.WordAccessesAreLittleEndian := by
  intro s a v _
  simp only [exec_decodeRead]
  refine ⟨fun hbuild => ?read, fun f hlo => ?raiseLo, fun t f hlo hhi => ?raiseHi, ?write⟩
  case read =>
    obtain ⟨lo, n, hlo⟩ := s.readByte_degrade a hbuild
    obtain ⟨hi, m, hhi⟩ := ((s.withDraws n).respond (.byte lo)).readByte_degrade (a + 1) hbuild
    have hhi' : (s.withDraws n).readByte (nextAddr a) = .ok (hi, m) := hhi
    have hword : s.readWord a = .ok (joinBytes hi lo, m) := by simp only [State.readWord, hlo, hhi']
    refine ⟨lo, hi, _, _, by rw [hlo]; rfl, rfl, by rw [hhi]; rfl, rfl, ?_⟩
    rw [← joinBytes_eq]
    exact congrArg s.answerWord hword
  case raiseLo =>
    have hword : s.readWord a = .error f := by simp only [State.readWord, State.answerByte_fault hlo]
    exact congrArg s.answerWord hword
  case raiseHi =>
    obtain ⟨lo, n, hok, rfl⟩ := State.answerByte_next hlo
    have hhi' : (s.withDraws n).readByte (nextAddr a) = .error f := State.answerByte_fault hhi
    have hword : s.readWord a = .error f := by simp only [State.readWord, hok, hhi']
    exact congrArg s.answerWord hword
  case write =>
    simp only [exec_decodeWrite, ← loByte_eq, ← hiByte_eq]
    exact ⟨_, _, rfl, rfl, rfl⟩

/-- Settles O16: 0xFFFF is owned by `ie`, and the address after it is 0x0000. -/
theorem wordAtTheTopWrapsToAddressZero : Obligations.WordAtTheTopWrapsToAddressZero := by
  intro s v
  refine ⟨fun hbuild => ?read, ?write⟩
  case read =>
    obtain ⟨b, hread⟩ := s.readRom_degrade 0x0000 hbuild
    have hlo : s.readByte 0xFFFF = .ok (s.mm.ie, s.draws) := rfl
    have hhi : (s.withDraws s.draws).readByte (nextAddr 0xFFFF) = .ok (b, s.draws) := hread
    have hword : s.readWord 0xFFFF = .ok (joinBytes b s.mm.ie, s.draws) := by simp only [State.readWord, hlo, hhi]
    refine ⟨b, congrArg s.answerByte hread, ?_⟩
    rw [show peek s .ie = s.mm.ie from rfl, ← joinBytes_eq]
    exact congrArg s.answerWord hword
  case write =>
    rw [← loByte_eq, ← hiByte_eq]
    rfl

/-- Settles O17: the word's two bytes are different bytes of storage, so each holds its half after the write. -/
theorem wordReadsReturnTheWordWritten : Obligations.WordReadsReturnTheWordWritten := by
  intro s a v h h'
  obtain ⟨t, ht, hfirst, hsecond⟩ := exec_wrw_plain h h' s v
  have hlo : t.readByte a = .ok (loByte v, t.draws) := by rw [State.readByte_plain h, hfirst]
  have hhi : t.readByte (a + 1) = .ok (hiByte v, t.draws) := by rw [State.readByte_plain h', hsecond]
  have hhi' : (t.withDraws t.draws).readByte (nextAddr a) = .ok (hiByte v, t.draws) := hhi
  have hword : t.readWord a = .ok (v, t.draws) := by simp only [State.readWord, hlo, hhi', joinBytes_halves]
  rw [← loByte_eq, ← hiByte_eq]
  refine ⟨t, ht, congrArg t.answerWord hword, ?_, ?_⟩
  · rw [exec_decodeRead, hlo]; rfl
  · rw [exec_decodeRead, hhi]; rfl

/-- Settles O18: at 0x5FFF the low byte is the write of the upper bank bits under the old mode, and at 0x6000 the high
byte is the write of the mode. -/
theorem wordWriteAcrossTheModeRegister : Obligations.WordWriteAcrossTheModeRegister := by
  intro s c v h
  have hexec : exec (.wrw 0x5FFF v) s =
      s.finishMm ((s.mm.writeRom 0x5FFF (loByte v)).writeRom 0x6000 (hiByte v)) := rfl
  have hwrite : ((Controller.linear c).write 0x5FFF (loByte v)).write 0x6000 (hiByte v) =
      .linear ((c.setUpper (loByte v)).setMode (hiByte v)) := rfl
  rw [hexec, MemoryMap.writeRom_some h, MemoryMap.writeRom_some rfl, hwrite, LinearBanking.setUpper_setMode]
  rfl

/-- Settles O19: the effective controller is NoBanking over `staging` and `xram`. -/
theorem beforeTheFirstLoadStagingAndXramServeTheCartridge :
    Obligations.BeforeTheFirstLoadStagingAndXramServeTheCartridge := by
  intro s a v h
  refine ⟨fun ha => ⟨?rRom, ?wRom⟩, fun hlo hhi => ⟨?rCram, ?wCram⟩⟩
  case rRom => exact congrArg s.answerByte (State.readRom_none h ha)
  case wRom => exact congrArg s.finishMm (MemoryMap.writeRom_none h a v)
  case rCram =>
    rw [← ramOffset_toNat hlo hhi]
    exact congrArg (fun r => s.answerByte (.ok r)) (State.readCram_none h a)
  case wCram =>
    rw [← ramOffset_toNat hlo hhi]
    exact exec_wCram_none h a v

end Sys2Proof.Proofs
end

section
/-! The rules of the CART rows that the banked controllers share (42_mbc_nobanking_linear.md section 3,
43_mbc_extended.md): bank-0 reads, the switchable window, the registers as numbers, and the RAM window. -/

namespace Sys2Proof.Machine

/-! ## Rows over the active controller -/

theorem State.onMbc2_cart {s : State} {c : Mbc2} (h : s.mm.cart = some (.mbc2 c)) (k : Mbc2 → Out) : s.onMbc2 k = k c :=
  State.onMbc2_eq (MemoryMap.ctl_some h) k

theorem State.onMbc3_cart {s : State} {c : Mbc3} (h : s.mm.cart = some (.mbc3 c)) (k : Mbc3 → Out) : s.onMbc3 k = k c :=
  State.onMbc3_eq (MemoryMap.ctl_some h) k

theorem State.onMbc5_cart {s : State} {c : Mbc5} (h : s.mm.cart = some (.mbc5 c)) (k : Mbc5 → Out) : s.onMbc5 k = k c :=
  State.onMbc5_eq (MemoryMap.ctl_some h) k

/-- An MBC2 control write completes with the controller its operation gives in place. -/
theorem State.onMbc2_finishCtl {s : State} {c c' : Mbc2} (h : s.mm.cart = some (.mbc2 c)) (f : Mbc2 → Mbc2) (hf : f c = c') :
    s.onMbc2 (fun k => s.finishCtl (.mbc2 (f k))) =
      .next { s with mm := { s.mm with cart := some (.mbc2 c') }, resp := .done } := by
  rw [State.onMbc2_cart h, hf, State.finishCtl_some h]

/-- An MBC3 control write completes with the controller its operation gives in place. -/
theorem State.onMbc3_finishCtl {s : State} {c c' : Mbc3} (h : s.mm.cart = some (.mbc3 c)) (f : Mbc3 → Mbc3) (hf : f c = c') :
    s.onMbc3 (fun k => s.finishCtl (.mbc3 (f k))) =
      .next { s with mm := { s.mm with cart := some (.mbc3 c') }, resp := .done } := by
  rw [State.onMbc3_cart h, hf, State.finishCtl_some h]

/-- An MBC5 control write completes with the controller its operation gives in place. -/
theorem State.onMbc5_finishCtl {s : State} {c c' : Mbc5} (h : s.mm.cart = some (.mbc5 c)) (f : Mbc5 → Mbc5) (hf : f c = c') :
    s.onMbc5 (fun k => s.finishCtl (.mbc5 (f k))) =
      .next { s with mm := { s.mm with cart := some (.mbc5 c') }, resp := .done } := by
  rw [State.onMbc5_cart h, hf, State.finishCtl_some h]

/-! ## Bank 0 and the switchable window -/

/-- A bank-0 read answers `rom[a]` inside the image, and beyond it 0xFF or the raise of the debug build (R228, R322). -/
theorem State.answerByte_romBank0 {s : State} {c : Controller} (h : s.mm.cart = some c) (a : Addr) {o : Out}
    (ho : o = s.answerByte (noDraw s.draws (romBank0 s.params.indexViolation c.romImage a))) :
    (a.toNat < c.romImage.len → o = .next { s with resp := .byte (peek s (.cartRom a.toNat)) }) ∧
    (c.romImage.len ≤ a.toNat → s.params.indexViolation = .degrade → o = .next { s with resp := .byte 0xFF }) ∧
    (c.romImage.len ≤ a.toNat → s.params.indexViolation = .fault → o = .fault (.internalIndexViolation a)) := by
  subst ho
  refine ⟨fun hin => ?_, fun hout hbuild => ?_, fun hout hbuild => ?_⟩
  · rw [romBank0, if_pos hin, peek_cartRom h]
    rfl
  · rw [romBank0, if_neg (Nat.not_lt.mpr hout), hbuild]
    rfl
  · rw [romBank0, if_neg (Nat.not_lt.mpr hout), hbuild]
    rfl

/-- The switchable window answers the image byte the bank shows, and 0xFF beyond the image (R229, R261). -/
theorem State.giveByte_romBanked {s : State} {c : Controller} (h : s.mm.cart = some c) {bank off : Nat} {a : Addr}
    (hoff : off = bank * 0x4000 + (a.toNat - 0x4000)) :
    s.giveByte (romBanked c.romImage bank a) =
      .next { s with resp := .byte (if off < c.romImage.len then peek s (.cartRom off) else 0xFF) } := by
  rw [peek_cartRom h, hoff]
  rfl

/-! ## Registers as numbers -/

/-- A bank register with 0 replaced by 1 is the greater of its number and 1 (R267, R276). -/
theorem replaceZero_eq {w : Nat} {x : BitVec w} {n : Nat} (hx : x.toNat = n) :
    (if x = 0 then 1 else x) = BitVec.ofNat w (max n 1) := by
  subst hx
  split_ifs with h0
  · rw [h0, show (0 : BitVec w).toNat = 0 from BitVec.toNat_zero]
    rfl
  · have hpos : 0 < x.toNat := Nat.pos_of_ne_zero fun h => h0 (BitVec.eq_of_toNat_eq h)
    rw [Nat.max_eq_left hpos, BitVec.ofNat_toNat, BitVec.setWidth_eq]

/-- The low bits of a byte, kept in a register of that width (R267, R276, R289, R290). -/
theorem setWidth_and_lowMask (v : Byte) {k : Nat} (h : k ≤ 8) :
    (v &&& BitVec.ofNat 8 (2 ^ k - 1)).setWidth k = BitVec.ofNat k (v.toNat % 2 ^ k) := by
  rw [← toNat_and_lowMask v h, BitVec.ofNat_toNat]

theorem toNat_setWidth_and_lowMask (v : Byte) {k : Nat} (h : k ≤ 8) :
    ((v &&& BitVec.ofNat 8 (2 ^ k - 1)).setWidth k).toNat = v.toNat % 2 ^ k := by
  rw [setWidth_and_lowMask v h, BitVec.toNat_ofNat, Nat.mod_mod]

theorem Mbc2.setEnable_eq (c : Mbc2) (v : Byte) : c.setEnable v = { c with ramEnabled := decide (v.toNat % 16 = 10) } := by
  rw [Mbc2.setEnable, enableTest_eq]

theorem Mbc2.setBank_eq (c : Mbc2) (v : Byte) :
    c.setBank v = { c with romBank := BitVec.ofNat 4 (max (v.toNat % 16) 1) } := by
  have hlow : ((v &&& 0x0F).setWidth 4).toNat = v.toNat % 16 := toNat_setWidth_and_lowMask v (by decide)
  rw [← replaceZero_eq hlow]
  rfl

theorem Mbc3.setEnable_eq (c : Mbc3) (v : Byte) : c.setEnable v = { c with ramEnabled := decide (v.toNat % 16 = 10) } := by
  rw [Mbc3.setEnable, enableTest_eq]

theorem Mbc3.setBank_eq (c : Mbc3) (v : Byte) :
    c.setBank v = { c with romBank := BitVec.ofNat 7 (max (v.toNat % 128) 1) } := by
  have hlow : ((v &&& 0x7F).setWidth 7).toNat = v.toNat % 128 := toNat_setWidth_and_lowMask v (by decide)
  rw [← replaceZero_eq hlow]
  rfl

theorem Mbc5.setEnable_eq (c : Mbc5) (v : Byte) : c.setEnable v = { c with ramEnabled := decide (v.toNat % 16 = 10) } := by
  rw [Mbc5.setEnable, enableTest_eq]

theorem Mbc5.setBankHi_eq (c : Mbc5) (v : Byte) : c.setBankHi v = { c with romBankHi := BitVec.ofNat 1 (v.toNat % 2) } := by
  have hlow : (v &&& 0x01).setWidth 1 = BitVec.ofNat 1 (v.toNat % 2) := setWidth_and_lowMask v (by decide)
  rw [Mbc5.setBankHi, hlow]

theorem Mbc5.setRamBank_eq (c : Mbc5) (v : Byte) : c.setRamBank v = { c with ramBank := BitVec.ofNat 4 (v.toNat % 16) } := by
  have hlow : (v &&& 0x0F).setWidth 4 = BitVec.ofNat 4 (v.toNat % 16) := setWidth_and_lowMask v (by decide)
  rw [Mbc5.setRamBank, hlow]

/-- Two fields side by side, as a number. -/
theorem toNat_append_fields {m n : Nat} (hi : BitVec m) (lo : BitVec n) : (hi ++ lo).toNat = hi.toNat * 2 ^ n + lo.toNat := by
  rw [BitVec.toNat_append, ← Nat.shiftLeft_add_eq_or_of_lt lo.isLt, Nat.shiftLeft_eq]

/-- The MBC5 ROM bank, its high bit above its low byte (R285). -/
theorem Mbc5.bank_eq (c : Mbc5) : c.bank = c.romBankHi.toNat * 256 + c.romBankLo.toNat :=
  toNat_append_fields c.romBankHi c.romBankLo

/-! ## The RAM window -/

/-- A controller RAM write that reaches no cell changes nothing. -/
theorem State.finishCtl_writeRam_none {s : State} {c : Controller} (h : s.mm.cart = some c) {o : RamOffset}
    (ht : c.ramTarget o = none) (v : Byte) : s.finishCtl (c.writeRam o v) = .next { s with resp := .done } := by
  rw [Controller.writeRam_of_no_target ht, State.finishCtl_self h]

theorem Mbc2.cell_eq (o : RamOffset) : Mbc2.cell o = o.toNat % 0x200 := toNat_and_lowMask o (k := 9) (by decide)

theorem Mbc2.ramTarget_enabled {c : Mbc2} (h : c.ramEnabled = true) (o : RamOffset) :
    (Controller.mbc2 c).ramTarget o = some (o.toNat % 0x200) := by
  rw [Controller.ramTarget, if_pos h, Mbc2.cell_eq]

theorem Mbc2.ramTarget_disabled {c : Mbc2} (h : c.ramEnabled = false) (o : RamOffset) :
    (Controller.mbc2 c).ramTarget o = none := by
  rw [Controller.ramTarget, h]
  rfl

/-- The byte an MBC2 stores of `v`: its low nibble (R270). -/
theorem Mbc2.stored_eq (c : Mbc2) (v : Byte) : (Controller.mbc2 c).stored v = BitVec.ofNat 8 (v.toNat % 16) := by
  have hv : (v &&& 0x0F).toNat = v.toNat % 16 := toNat_and_lowMask v (k := 4) (by decide)
  rw [← hv, BitVec.ofNat_toNat, BitVec.setWidth_eq]
  rfl

/-- An MBC2 RAM read, its low nibble the cell's (R269). -/
theorem Mbc2.readRam_enabled {c : Mbc2} (h : c.ramEnabled = true) (o : RamOffset) (n : Nat) :
    ∃ b : Byte, c.readRam o n = (b, n + 1) ∧ b.toNat % 16 = ((Controller.mbc2 c).ramByte (o.toNat % 0x200)).toNat := by
  refine ⟨_, if_pos h, ?_⟩
  have hcell := (Memory.get zeroCell c.ram (o.toNat % 0x200)).isLt
  rw [Mbc2.cell_eq, toNat_append_fields, Controller.ramByte, BitVec.toNat_setWidth]
  omega

theorem Mbc3.ramCell_enabled {c : Mbc3} (h : c.ramEnabled = true) (hsel : c.select.toNat ≤ 3) (o : RamOffset) :
    c.ramCell o = some (c.select.toNat * 0x2000 + o.toNat) := by
  rw [Mbc3.ramCell, if_pos h, if_pos hsel]
  rfl

theorem Mbc3.ramCell_none {c : Mbc3} (h : c.ramEnabled = false ∨ 4 ≤ c.select.toNat) (o : RamOffset) : c.ramCell o = none := by
  unfold Mbc3.ramCell
  split_ifs with hen hsel
  · obtain hdis | hbig := h
    · rw [hdis] at hen
      cases hen
    · omega
  · rfl
  · rfl

/-- While the latch is set, an RTC select reads a free value (R281). -/
theorem Mbc3.readRam_rtc {c : Mbc3} (h : c.ramEnabled = true) (hlo : 0x08 ≤ c.select.toNat) (hhi : c.select.toNat ≤ 0x0C)
    (o : RamOffset) (n : Nat) : c.readRam o n = (Config.rtcRead n, n + 1) := by
  have hrtc : c.selectsRtc = true := decide_eq_true ⟨hlo, hhi⟩
  rw [Mbc3.readRam, Mbc3.ramCell_none (.inr (by omega)), h, hrtc]
  rfl

/-- With the latch clear, or a select that names no target, a read gives 0xFF (R280, R281). -/
theorem Mbc3.readRam_none {c : Mbc3}
    (h : c.ramEnabled = false ∨ (0x04 ≤ c.select.toNat ∧ c.select.toNat ≤ 0x07) ∨ 0x0D ≤ c.select.toNat) (o : RamOffset)
    (n : Nat) : c.readRam o n = (0xFF, n) := by
  have hrtc : (c.ramEnabled && c.selectsRtc) = false := by
    obtain hdis | hsel := h
    · rw [hdis, Bool.false_and]
    · rw [show c.selectsRtc = false from decide_eq_false (by omega), Bool.and_false]
  rw [Mbc3.readRam, Mbc3.ramCell_none (h.imp_right (by omega)), hrtc]
  rfl

theorem Mbc5.ramCell_enabled {c : Mbc5} (h : c.ramEnabled = true) (o : RamOffset) :
    c.ramCell o = some (c.ramBank.toNat * 0x2000 + o.toNat) := by
  rw [Mbc5.ramCell, if_pos h]
  rfl

theorem Mbc5.ramCell_disabled {c : Mbc5} (h : c.ramEnabled = false) (o : RamOffset) : c.ramCell o = none := by
  rw [Mbc5.ramCell, h]
  rfl

end Sys2Proof.Machine
end

section
/-! The statements about LinearBanking's bank 0 and about MBC2, MBC3 and MBC5 (42_mbc_nobanking_linear.md section 3,
43_mbc_extended.md). -/

namespace Sys2Proof.Proofs

open Sys2Proof.Machine Sys2Proof.Laws

/-- Settles O22: the row is a bank-0 read of the controller's image. -/
theorem linearBankZeroReads : Obligations.LinearBankZeroReads := fun _ _ a h ha =>
  ⟨cartMeans_of_roundTrip (RoundTrip.lbRead0000 a) (inRange_iff.mpr ⟨by omega, ha⟩) rfl rfl,
    State.answerByte_romBank0 h a (State.onLinear_cart h _)⟩

/-- Settles O26: the three rows are bank-0 reads of the controller's image. -/
theorem extendedBankZeroReads : Obligations.ExtendedBankZeroReads := by
  intro s a
  refine ⟨fun c h ha => ⟨?word2, ?read2⟩, fun c h ha => ⟨?word3, ?read3⟩, fun c h ha => ⟨?word5, ?read5⟩⟩
  case word2 => exact cartMeans_of_roundTrip (RoundTrip.m2Read0000 a) (inRange_iff.mpr ⟨by omega, ha⟩) rfl rfl
  case word3 => exact cartMeans_of_roundTrip (RoundTrip.m3Read0000 a) (inRange_iff.mpr ⟨by omega, ha⟩) rfl rfl
  case word5 => exact cartMeans_of_roundTrip (RoundTrip.m5Read0000 a) (inRange_iff.mpr ⟨by omega, ha⟩) rfl rfl
  case read2 => exact State.answerByte_romBank0 h a (State.onMbc2_cart h _)
  case read3 => exact State.answerByte_romBank0 h a (State.onMbc3_cart h _)
  case read5 => exact State.answerByte_romBank0 h a (State.onMbc5_cart h _)

/-- Settles O27: the window shows the bank of the controller's registers, MBC5's of two fields side by side. -/
theorem extendedSwitchableWindows : Obligations.ExtendedSwitchableWindows := by
  intro s a off
  refine ⟨fun c h => ⟨fun hlo hhi hoff => ⟨?word2, ?read2⟩, fun ha => ⟨?above2, State.onMbc2_cart h _⟩⟩,
    fun c h => ⟨fun hlo hhi hoff => ⟨?word3, ?read3⟩, fun ha => ⟨?above3, State.onMbc3_cart h _⟩⟩,
    fun c h => ⟨fun hlo hhi hoff => ⟨?word5, ?read5⟩, fun ha => ⟨?above5, State.onMbc5_cart h _⟩⟩⟩
  case word2 => exact cartMeans_of_roundTrip (RoundTrip.m2Read4000 a) (inRange_iff.mpr ⟨hlo, hhi⟩) rfl rfl
  case word3 => exact cartMeans_of_roundTrip (RoundTrip.m3Read4000 a) (inRange_iff.mpr ⟨hlo, hhi⟩) rfl rfl
  case word5 => exact cartMeans_of_roundTrip (RoundTrip.m5Read4000 a) (inRange_iff.mpr ⟨hlo, hhi⟩) rfl rfl
  case above2 => exact cartMeans_of_roundTrip (RoundTrip.m2Read8000 a) (inRange_iff.mpr ⟨ha, by omega⟩) rfl rfl
  case above3 => exact cartMeans_of_roundTrip (RoundTrip.m3Read8000 a) (inRange_iff.mpr ⟨ha, by omega⟩) rfl rfl
  case above5 => exact cartMeans_of_roundTrip (RoundTrip.m5Read8000 a) (inRange_iff.mpr ⟨ha, by omega⟩) rfl rfl
  case read2 => exact (State.onMbc2_cart h _).trans (State.giveByte_romBanked h hoff)
  case read3 => exact (State.onMbc3_cart h _).trans (State.giveByte_romBanked h hoff)
  case read5 =>
    rw [← c.bank_eq] at hoff
    exact (State.onMbc5_cart h _).trans (State.giveByte_romBanked h hoff)

/-- Settles O28: address bit 8 picks the row, and the lemma about its operation says which field differs. -/
theorem mbc2RegisterWrites : Obligations.Mbc2RegisterWrites := by
  intro s c a v h ha
  have hbit : a.getLsbD 8 = decide (a.toNat / 256 % 2 = 1) := Nat.testBit_eq_decide_div_mod_eq
  have hrange : inRange a 0x0000 0x3FFF = true := inRange_iff.mpr ⟨by omega, ha⟩
  refine ⟨fun h8 => ⟨?wordEnable, State.onMbc2_finishCtl h (·.setEnable v) (c.setEnable_eq v)⟩,
    fun h8 => ⟨?wordBank, State.onMbc2_finishCtl h (·.setBank v) (c.setBank_eq v)⟩⟩
  case wordEnable =>
    have hclear : (!a.getLsbD 8) = true := by rw [hbit, h8]; rfl
    exact cartMeans_of_roundTrip (RoundTrip.m2WriteA8Clear a v) (Bool.and_eq_true_iff.mpr ⟨hrange, hclear⟩) rfl rfl
  case wordBank =>
    have hset : a.getLsbD 8 = true := by rw [hbit, h8]; rfl
    exact cartMeans_of_roundTrip (RoundTrip.m2WriteA8Set a v) (Bool.and_eq_true_iff.mpr ⟨hrange, hset⟩) rfl rfl

/-- Settles O29: while RAM is enabled every offset reaches a cell, and while it is disabled none does. -/
theorem mbc2NibbleRam : Obligations.Mbc2NibbleRam := by
  intro s c o v h
  refine ⟨cartMeans_of_roundTrip (RoundTrip.m2ReadRam o) rfl rfl rfl,
    cartMeans_of_roundTrip (RoundTrip.m2WriteRam o v) rfl rfl rfl, fun hen => ⟨?read, ?write⟩, fun hdis => ⟨?readOff, ?writeOff⟩⟩
  case read =>
    obtain ⟨b, hread, hlow⟩ := Mbc2.readRam_enabled hen o s.draws
    refine ⟨b, (State.onMbc2_cart h _).trans ?_, by rw [peek_cartRam h, hlow]⟩
    rw [hread]
    rfl
  case write =>
    obtain ⟨t, ht, hs⟩ := State.finishCtl_writeRam h (Mbc2.ramTarget_enabled hen o) v
    exact ⟨t, (State.onMbc2_cart h _).trans ht, c.stored_eq v ▸ hs⟩
  case readOff =>
    refine (State.onMbc2_cart h _).trans ?_
    rw [Mbc2.readRam, hdis]
    rfl
  case writeOff =>
    exact (State.onMbc2_cart h _).trans (State.finishCtl_writeRam_none h (Mbc2.ramTarget_disabled hdis o) v)

/-- Settles O30: each row replaces the controller by the one its register operation gives. -/
theorem mbc3RegisterWrites : Obligations.Mbc3RegisterWrites := by
  intro s c a v h
  refine ⟨fun ha => ⟨?word0, State.onMbc3_finishCtl h (·.setEnable v) (c.setEnable_eq v)⟩,
    fun hlo hhi => ⟨?word2, State.onMbc3_finishCtl h (·.setBank v) (c.setBank_eq v)⟩,
    fun hlo hhi => ⟨?word4, State.onMbc3_finishCtl h (·.setSelect v) rfl⟩⟩
  case word0 => exact cartMeans_of_roundTrip (RoundTrip.m3Write0000 a v) (inRange_iff.mpr ⟨by omega, ha⟩) rfl rfl
  case word2 => exact cartMeans_of_roundTrip (RoundTrip.m3Write2000 a v) (inRange_iff.mpr ⟨hlo, hhi⟩) rfl rfl
  case word4 => exact cartMeans_of_roundTrip (RoundTrip.m3Write4000 a v) (inRange_iff.mpr ⟨hlo, hhi⟩) rfl rfl

/-- Settles O31: the latch and the select decide whether an offset reaches a cell, a free value, or nothing. -/
theorem mbc3RamWindow : Obligations.Mbc3RamWindow := by
  intro s c o v h
  refine ⟨cartMeans_of_roundTrip (RoundTrip.m3ReadRam o) rfl rfl rfl,
    cartMeans_of_roundTrip (RoundTrip.m3WriteRam o v) rfl rfl rfl, fun hen hsel => ⟨?readCell, ?writeCell⟩,
    fun hen hlo hhi => ⟨Config.rtcRead s.draws, ?readRtc⟩, fun hnone => ?readNone, fun hnone => ?writeNone⟩
  case readCell =>
    rw [peek_cartRam h]
    refine (State.onMbc3_cart h _).trans ?_
    rw [Mbc3.readRam, Mbc3.ramCell_enabled hen hsel]
    rfl
  case writeCell =>
    obtain ⟨t, ht, hs⟩ := State.finishCtl_writeRam h (Mbc3.ramCell_enabled hen hsel o) v
    exact ⟨t, (State.onMbc3_cart h _).trans ht, hs⟩
  case readRtc =>
    refine (State.onMbc3_cart h _).trans ?_
    rw [Mbc3.readRam_rtc hen hlo hhi]
    rfl
  case readNone =>
    refine (State.onMbc3_cart h _).trans ?_
    rw [Mbc3.readRam_none hnone]
    rfl
  case writeNone =>
    exact (State.onMbc3_cart h _).trans (State.finishCtl_writeRam_none h (Mbc3.ramCell_none hnone o) v)

/-- Settles O32: each row replaces the controller by the one its register operation gives. -/
theorem mbc5RegisterWrites : Obligations.Mbc5RegisterWrites := by
  intro s c a v h
  refine ⟨fun ha => ⟨?word0, State.onMbc5_finishCtl h (·.setEnable v) (c.setEnable_eq v)⟩,
    fun hlo hhi => ⟨?word2, State.onMbc5_finishCtl h (·.setBankLo v) rfl⟩,
    fun hlo hhi => ⟨?word3, State.onMbc5_finishCtl h (·.setBankHi v) (c.setBankHi_eq v)⟩,
    fun hlo hhi => ⟨?word4, State.onMbc5_finishCtl h (·.setRamBank v) (c.setRamBank_eq v)⟩⟩
  case word0 => exact cartMeans_of_roundTrip (RoundTrip.m5Write0000 a v) (inRange_iff.mpr ⟨by omega, ha⟩) rfl rfl
  case word2 => exact cartMeans_of_roundTrip (RoundTrip.m5Write2000 a v) (inRange_iff.mpr ⟨hlo, hhi⟩) rfl rfl
  case word3 => exact cartMeans_of_roundTrip (RoundTrip.m5Write3000 a v) (inRange_iff.mpr ⟨hlo, hhi⟩) rfl rfl
  case word4 => exact cartMeans_of_roundTrip (RoundTrip.m5Write4000 a v) (inRange_iff.mpr ⟨hlo, hhi⟩) rfl rfl

/-- Settles O33: while RAM is enabled every offset reaches a cell, and while it is disabled none does. -/
theorem mbc5RamWindow : Obligations.Mbc5RamWindow := by
  intro s c o v h
  refine ⟨cartMeans_of_roundTrip (RoundTrip.m5ReadRam o) rfl rfl rfl,
    cartMeans_of_roundTrip (RoundTrip.m5WriteRam o v) rfl rfl rfl, fun hen => ⟨?read, ?write⟩, fun hdis => ⟨?readOff, ?writeOff⟩⟩
  case read =>
    rw [peek_cartRam h]
    refine (State.onMbc5_cart h _).trans ?_
    rw [Mbc5.readRam, Mbc5.ramCell_enabled hen]
    rfl
  case write =>
    obtain ⟨t, ht, hs⟩ := State.finishCtl_writeRam h (Mbc5.ramCell_enabled hen o) v
    exact ⟨t, (State.onMbc5_cart h _).trans ht, hs⟩
  case readOff =>
    refine (State.onMbc5_cart h _).trans ?_
    rw [Mbc5.readRam, Mbc5.ramCell_disabled hdis]
    rfl
  case writeOff =>
    exact (State.onMbc5_cart h _).trans (State.finishCtl_writeRam_none h (Mbc5.ramCell_disabled hdis o) v)

/-- Settles O34: each row puts the controller back as it was. -/
theorem controllerWritesThatSetNoRegister : Obligations.ControllerWritesThatSetNoRegister := by
  intro s a v
  refine ⟨fun c h ha => ⟨?wordLb, (State.onLinear_cart h _).trans (State.finishCtl_self h)⟩,
    fun c h ha => ⟨?wordM2, (State.onMbc2_cart h _).trans (State.finishCtl_self h)⟩,
    fun c h hlo hhi => ⟨?wordRtc, (State.onMbc3_cart h _).trans (State.finishCtl_self h)⟩,
    fun c h ha => ⟨?wordM3, (State.onMbc3_cart h _).trans (State.finishCtl_self h)⟩,
    fun c h ha => ⟨?wordM5, (State.onMbc5_cart h _).trans (State.finishCtl_self h)⟩⟩
  case wordLb => exact cartMeans_of_roundTrip (RoundTrip.lbWrite8000 a v) (inRange_iff.mpr ⟨ha, by omega⟩) rfl rfl
  case wordM2 => exact cartMeans_of_roundTrip (RoundTrip.m2Write4000 a v) (inRange_iff.mpr ⟨ha, by omega⟩) rfl rfl
  case wordRtc => exact cartMeans_of_roundTrip (RoundTrip.m3Write6000 a v) (inRange_iff.mpr ⟨hlo, hhi⟩) rfl rfl
  case wordM3 => exact cartMeans_of_roundTrip (RoundTrip.m3Write8000 a v) (inRange_iff.mpr ⟨ha, by omega⟩) rfl rfl
  case wordM5 => exact cartMeans_of_roundTrip (RoundTrip.m5Write6000 a v) (inRange_iff.mpr ⟨ha, by omega⟩) rfl rfl

end Sys2Proof.Proofs
end

section
/-! The rules of construction, RESET and LOADROM (41_memory_map.md section 6, 70_reset_and_hazards.md section 1). -/

namespace Sys2Proof.Machine

/-! ## Power-on values (R199) -/

/-- No entry of the power-on table is beyond the I/O range. -/
theorem ioDefault_beyond {i : Nat} (h : 0x80 ≤ i) : ioDefault i = 0x00 := by
  have hbound : ∀ e ∈ ioDefaults, e.1 < 0xFF80 := by decide
  have hnone : ioDefaults.find? (fun e => e.1 == 0xFF00 + i) = none := by
    refine List.find?_eq_none.mpr fun e he heq => ?_
    have hlt := hbound e he
    have heq := eq_of_beq heq
    omega
  rw [ioDefault, hnone]

/-- The power-on values by index: checked for the I/O range's 128 bytes, and 0x00 beyond it. -/
theorem ioDefault_eq (i : Nat) : ioDefault i =
    if i = 0x10 then 0x80 else if i = 0x11 then 0xBF else if i = 0x12 then 0xF3 else if i = 0x14 then 0xBF
    else if i = 0x16 then 0x3F else if i = 0x19 then 0xBF else if i = 0x1A then 0x7F else if i = 0x1B then 0xFF
    else if i = 0x1C then 0x9F else if i = 0x1E then 0xBF else if i = 0x20 then 0xFF else if i = 0x23 then 0xBF
    else if i = 0x24 then 0x77 else if i = 0x25 then 0xF3 else if i = 0x26 then 0xF1 else if i = 0x40 then 0x91
    else if i = 0x47 then 0xFC else if i = 0x48 then 0xFF else if i = 0x49 then 0xFF else 0x00 := by
  by_cases h : i < 0x80
  · revert i
    decide
  · rw [ioDefault_beyond (Nat.le_of_not_lt h)]
    iterate 19 rw [if_neg (by omega)]

/-! ## The variant of a type code (R197) -/

theorem selectVariant_fst (code : Byte) : (selectVariant code).1 =
    if 0x01 ≤ code.toNat ∧ code.toNat ≤ 0x03 then .linear
    else if 0x05 ≤ code.toNat ∧ code.toNat ≤ 0x06 then .mbc2
    else if 0x0F ≤ code.toNat ∧ code.toNat ≤ 0x13 then .mbc3
    else if 0x19 ≤ code.toNat ∧ code.toNat ≤ 0x1E then .mbc5 else .noBanking := by
  simp only [selectVariant]
  split_ifs <;> grind

theorem isExtended_selectVariant (code : Byte) : isExtended (selectVariant code).1 = true ↔
    (0x05 ≤ code.toNat ∧ code.toNat ≤ 0x06) ∨ (0x0F ≤ code.toNat ∧ code.toNat ≤ 0x13) ∨
      (0x19 ≤ code.toNat ∧ code.toNat ≤ 0x1E) := by
  rw [selectVariant_fst]
  split_ifs <;> simp only [isExtended, Bool.false_eq_true, false_iff, true_iff] <;> omega

theorem selectVariant_snd (code : Byte) :
    (selectVariant code).2 = true ↔ ¬ (code.toNat ≤ 0x03 ∨ isExtended (selectVariant code).1 = true) := by
  rw [isExtended_selectVariant]
  simp only [selectVariant]
  split_ifs <;> simp only [false_iff, true_iff] <;> omega

theorem variant_construct (init : RamInit) (var : Variant) (staging : Memory) (image : Image) :
    (construct init var staging image).variant = var := by
  cases var <;> rfl

/-! ## LOADROM (R196) -/

/-- The state a LOADROM leaves. -/
def State.loaded (s : State) (image : List Byte) (code : Byte) : State :=
  (s.withMm (s.mm.loadRom s.params.ramInit (selectVariant code).1 image)).respond
    (.loaded (if (selectVariant code).2 then some code else none))

theorem exec_loadrom_refused {code : Byte} {s : State} (hext : isExtended (selectVariant code).1 = true)
    (hrefuse : s.params.extendedMbc = .refuse) (image : List Byte) :
    exec (.loadrom image code) s = .refused (.unmodelledVariant code) := by
  simp only [exec, execLoadrom, hext, hrefuse]
  rfl

theorem exec_loadrom_loaded {code : Byte} {s : State}
    (h : isExtended (selectVariant code).1 = false ∨ s.params.extendedMbc = .gk) (image : List Byte) :
    exec (.loadrom image code) s = .next (s.loaded image code) := by
  have hcond : (isExtended (selectVariant code).1 && s.params.extendedMbc == .refuse) = false := by
    obtain hext | hgk := h
    · rw [hext, Bool.false_and]
    · rw [hgk]
      exact Bool.and_false _
  simp only [exec, execLoadrom, hcond]
  rfl

/-- The zero-fill and the copy of the first 0x8000 image bytes. -/
theorem get_stagedImage (image : List Byte) (i : Nat) :
    Memory.get zeroCell (stagedImage image) i = if i < 0x8000 then image.getD i 0x00 else 0x00 := by
  rw [stagedImage, Memory.get_ofBytes, if_pos (Nat.zero_le i), Nat.sub_zero, List.getElem?_take,
    List.getD_eq_getElem?_getD, show Config.stagingSize = 0x8000 from rfl]
  split_ifs <;> rfl

theorem byte_ofBytes (image : List Byte) (i : Nat) : (Image.ofBytes image).byte i = image.getD i 0x00 := by
  rw [Image.byte, Image.ofBytes, Memory.get_ofBytes, if_pos (Nat.zero_le i), Nat.sub_zero, List.getD_eq_getElem?_getD]

/-- A cell of a fresh byte array holds what `CART_RAM_INIT` holds (10_state.md R38). -/
theorem get_fresh_id {size i : Nat} (init : Memory) (h : i < size) :
    Memory.get zeroCell (Memory.fresh id size init) i = Memory.get zeroCell init i := by
  rw [Memory.get_fresh id rfl, if_pos h, id]

/-- A cell of a fresh MBC2 array holds the low nibble of `CART_RAM_INIT`'s byte (R38). -/
theorem get_fresh_nibble {size i : Nat} (init : Memory) (h : i < size) :
    (Memory.get zeroCell (Memory.fresh (BitVec.setWidth 4) size init) i).toNat = (Memory.get zeroCell init i).toNat % 16 := by
  rw [Memory.get_fresh (BitVec.setWidth 4) rfl, if_pos h, BitVec.toNat_setWidth]

end Sys2Proof.Machine
end

section
/-! The statements about construction, RESET and LOADROM. -/

namespace Sys2Proof.Proofs

open Sys2Proof.Machine

/-- Settles O46: RESET empties the buffers, an empty buffer reads 0x00, and the empty `io` the power-on table. -/
theorem resetSetsThePowerOnValues : Obligations.ResetSetsThePowerOnValues :=
  fun _ => ⟨_, rfl, rfl, rfl, rfl, rfl, fun _ => ⟨rfl, rfl, rfl, rfl, rfl⟩, ioDefault_eq⟩

/-- Settles O47: the ranges of the type code decide the variant, the refusal and the warning. -/
theorem loadRomSelectsTheVariantByCode : Obligations.LoadRomSelectsTheVariantByCode := by
  intro s image code extended var known hext hknown hvar
  rw [← isExtended_selectVariant] at hext
  rw [hext] at hknown
  refine ⟨fun he hrefuse => exec_loadrom_refused (hext.mp he) hrefuse image, fun h => ⟨_, exec_loadrom_loaded ?_ image, ?variant,
    fun hk => congrArg Response.loaded (if_neg ?known), fun hk => congrArg Response.loaded (if_pos ?unknown)⟩⟩
  · exact h.imp_left fun hne => Bool.eq_false_iff.mpr (mt hext.mpr hne)
  case variant =>
    rw [hvar, ← selectVariant_fst]
    exact congrArg some (variant_construct _ _ _ _)
  case known => exact fun hwarn => (selectVariant_snd code).mp hwarn (hknown.mp hk)
  case unknown => exact (selectVariant_snd code).mpr (mt hknown.mpr hk)

/-- Settles O48: staging holds the copied bytes, and the memory map changes in no other buffer. -/
theorem loadRomStagesTheImageAndTouchesNothingElse : Obligations.LoadRomStagesTheImageAndTouchesNothingElse := by
  intro s t image code h
  have ht := execLoadrom_next h
  subst ht
  refine ⟨rfl, get_stagedImage image, fun b i hb => ?_, rfl⟩
  cases b with
  | staging => exact absurd rfl hb
  | _ => rfl

/-- Settles O49: the controller is the construction of the selected variant. -/
theorem loadRomBuildsAFreshController : Obligations.LoadRomBuildsAFreshController := by
  intro s t image code h
  have ht := execLoadrom_next h
  subst ht
  refine ⟨_, rfl, fun init hinit => ?_⟩
  subst hinit
  cases (selectVariant code).1 with
  | noBanking => exact ⟨fun i hi => (get_stagedImage image i).trans (if_pos hi), fun i hi => get_fresh_id _ hi⟩
  | linear => exact ⟨rfl, byte_ofBytes image, rfl, rfl, rfl, rfl, fun i hi => get_fresh_id _ hi⟩
  | mbc2 => exact ⟨rfl, byte_ofBytes image, rfl, rfl, fun i hi => get_fresh_nibble _ hi⟩
  | mbc3 => exact ⟨rfl, byte_ofBytes image, rfl, rfl, rfl, fun i hi => get_fresh_id _ hi⟩
  | mbc5 => exact ⟨rfl, byte_ofBytes image, rfl, rfl, rfl, rfl, fun i hi => get_fresh_id _ hi⟩

/-- Settles O50: LOADROM reads neither the controller nor staging, and replaces both. -/
theorem loadRomForgetsTheOldController : Obligations.LoadRomForgetsTheOldController := fun _ _ _ _ _ => rfl

/-- Settles O51: every buffer of a fresh memory map is empty, as RESET leaves it. -/
theorem constructionState : Obligations.ConstructionState := by
  rintro p regs _ rfl
  refine ⟨rfl, rfl, rfl, fun b i hb => ?_, rfl, rfl, rfl⟩
  cases b with
  | io => exact absurd rfl hb
  | _ => rfl

end Sys2Proof.Proofs
end
